-- ==== Sys2Proof/Word.lean ====
section
/-!
DEFINITION. The widths of the core (rule R6) as types. Every value of the data path is an unsigned bit vector of a
stated width, bit 0 the least significant (rules R10, R11).
-/

namespace Sys2Proof

/-- A Block: `BLOCK_W` = 32 bits, Left half `[31:16]`, Right half `[15:0]` (R6, R21). -/
abbrev Block := BitVec 32

/-- A half-block: `HALF_W` = 16 bits (R6). -/
abbrev Half := BitVec 16

/-- A KeySeed: `SEED_W` = 32 bits (R6, R38). -/
abbrev Seed := BitVec 32

/-- A RoundKey: `RK_W` = 24 bits (R6, R34). -/
abbrev RoundKey := BitVec 24

/-- An S-box output: `SBOX_OUT` = 4 bits (R6). -/
abbrev Nibble := BitVec 4

/-- A KeySchedule: "an ordered sequence of exactly 16 RoundKeys" (R6, R34). -/
abbrev KeySchedule := Vector RoundKey 16

/-- The data field of a command or a response: 32 bits (R72, R76). -/
abbrev Data := BitVec 32

/-- A command word: 36 bits (R72). -/
abbrev CmdWord := BitVec 36

/-- A response word: 34 bits (R76). -/
abbrev RspWord := BitVec 34

end Sys2Proof
end

