-- ==== Sys2Proof/Config.lean ====
section
/-!
DEFINITION. What is fixed for one core and what the spec leaves open: the type of a valid Table Set (rules R7, R90 to
R93), the Table Set of this core, and the values a read of round-key index 16 gives (rules R8, R157).
-/

namespace Sys2Proof

/-- A valid Table Set `TS` (R7, R92, R93). Lengths, shapes and domains are in the types, so a value of this type meets
all of R93 and every look-up in it is in range (R58): a selection table of `m` entries into an `n`-bit value is a
`Vector (Fin n) m`, an S-box is 4 rows of 16 nibbles. Nothing else is asked of the contents (R93, R97, R100). -/
structure TableSet where
  /-- PC1, 32 indices into the 32-bit seed. -/
  pc1 : Vector (Fin 32) 32
  /-- PC2, 24 indices into the 32-bit value of rule R116. -/
  pc2 : Vector (Fin 32) 24
  /-- E, the expansion table, 24 indices into a half-block. -/
  e : Vector (Fin 16) 24
  /-- P, the fixed permutation, 16 indices into a 16-bit value. -/
  p : Vector (Fin 16) 16
  /-- `s[k][row][col]`, the four S-boxes (R91). -/
  s : Vector (Vector (Vector Nibble 16) 4) 4
  deriving DecidableEq, Repr, Inhabited

/-- Tables as they are written down, before validity is checked: lists of natural numbers (R91, R94). -/
structure RawTableSet where
  /-- PC1 as listed. -/
  pc1 : List Nat
  /-- PC2 as listed. -/
  pc2 : List Nat
  /-- E as listed. -/
  e : List Nat
  /-- P as listed. -/
  p : List Nat
  /-- the S-boxes, each a list of rows. -/
  s : List (List (List Nat))
  deriving DecidableEq, Repr

/-- The one error of constructing a Table Set (R191): no core is built from invalid tables. -/
inductive ConfigError where
  /-- a table of the wrong length or shape, or with an entry outside its domain (R93). -/
  | configError
  deriving DecidableEq, Repr

/-- The Table Set of this core. The spec gives no entry of any table (R7, D2), so nothing is known of it but that it is
valid: a free value, the same for every command and not changed by reset (R51). Log 1. -/
opaque Config.tables : TableSet

/-- `KOOR`: what the `n`-th read of round-key index 16 returns (R8, R157, D7). Unconstrained: a free value, a fresh one
at each read, because every read advances the counter it is applied to. Log 2. -/
opaque Config.koor : Nat → RoundKey

end Sys2Proof
end

