-- ==== Sys2Proof/Syntax.lean ====
section
/-!
DEFINITION. The commands of the core: one constructor for each row of the opcode map (rule R74), with the operands of
rule R73, and the pseudo-commands of rule R79, each of which stands for exactly one command.
-/

namespace Sys2Proof

/-- The values of `CFG.FMODE` (R28): what the fixed permutation P of the round function consumes. -/
inductive FMode where
  /-- 0, `F_REF`: P consumes the round function's original input. -/
  | fRef
  /-- 1, `F_SUB`: P consumes the substitution output. -/
  | fSub
  deriving DecidableEq, Repr

/-- The values of `CFG.KIDX` (R28): the round-key index of Decrypt round n. -/
inductive KIdx where
  /-- 0, `K15`: index 15 - n. -/
  | k15
  /-- 1, `K16`: index 16 - n. -/
  | k16
  deriving DecidableEq, Repr

/-- The Direction of a transform (R150); selected by the opcode ENC or DEC (R74). -/
inductive Direction where
  /-- Encrypt. -/
  | encrypt
  /-- Decrypt. -/
  | decrypt
  deriving DecidableEq, Repr

/-- The seven commands (R74). The operand types hold exactly the values the encoding admits (R73), so every term is a
well-formed command. -/
inductive Instr where
  /-- NOP (R170). -/
  | nop
  /-- SETMODE fmode, kidx (R172). -/
  | setmode (fmode : FMode) (kidx : KIdx)
  /-- KEYGEN seed (R120). -/
  | keygen (seed : Seed)
  /-- ENC block (R160). -/
  | enc (block : Block)
  /-- DEC block (R161). -/
  | dec (block : Block)
  /-- RDSTAT (R174). -/
  | rdstat
  /-- RDKEY idx, a round number 0..15 (R176). -/
  | rdkey (idx : Fin 16)
  deriving DecidableEq, Repr

/-- Pseudo-command `generate_schedule seed` (R79). -/
def Instr.generateSchedule (seed : Seed) : Instr := .keygen seed

/-- Pseudo-command `transform_block block, direction` (R79). -/
def Instr.transformBlock (block : Block) : Direction → Instr
  | .encrypt => .enc block
  | .decrypt => .dec block

/-- Pseudo-command MODE_DOC: the document's main-line text, also the reset value (R79). -/
def Instr.modeDoc : Instr := .setmode .fRef .k15

/-- Pseudo-command MODE_REFERENCE: both suspected defects of the reference (R79). -/
def Instr.modeReference : Instr := .setmode .fRef .k16

/-- Pseudo-command MODE_CORRECTED: both corrected (R79). -/
def Instr.modeCorrected : Instr := .setmode .fSub .k15

end Sys2Proof
end

