-- ==== Sys2Proof/WellFormed.lean ====
section
/-!
DEFINITION. Which command words are well formed: the opcode map of rule R74 written as its masks and matches, and the
check that a word selects a row of it. An `Instr` needs no check of its own, since its operand types admit only values
the encoding has (rule R73). The validity of a Table Set (rule R93) is checked in Machine/Tables.lean.
-/

namespace Sys2Proof

/-- One row of the opcode map (R74): a word `w` selects the row when `w and mask = pattern`. -/
structure OpcodeRow where
  /-- the row's mnemonic. -/
  mnemonic : String
  /-- the bits the row fixes. -/
  mask : CmdWord
  /-- the value of those bits, "match" in the map. -/
  pattern : CmdWord
  deriving DecidableEq, Repr

/-- The opcode map (R74). -/
def opcodeMap : List OpcodeRow :=
  [⟨"NOP", 0xFFFFFFFFF, 0x000000000⟩,
   ⟨"SETMODE", 0xFFFFFFFFC, 0x100000000⟩,
   ⟨"KEYGEN", 0xF00000000, 0x200000000⟩,
   ⟨"ENC", 0xF00000000, 0x400000000⟩,
   ⟨"DEC", 0xF00000000, 0x500000000⟩,
   ⟨"RDSTAT", 0xFFFFFFFFF, 0x600000000⟩,
   ⟨"RDKEY", 0xFFFFFFFF0, 0x700000000⟩]

/-- The word selects the row (R74). -/
def OpcodeRow.selects (r : OpcodeRow) (w : CmdWord) : Bool := w &&& r.mask == r.pattern

/-- The word is legal: it selects a row of the opcode map. Every other word is illegal (R75). -/
def legalWord (w : CmdWord) : Bool := opcodeMap.any fun r => r.selects w

/-- The mnemonic of a command, as the opcode map spells it. -/
def Instr.mnemonic : Instr → String
  | .nop => "NOP"
  | .setmode _ _ => "SETMODE"
  | .keygen _ => "KEYGEN"
  | .enc _ => "ENC"
  | .dec _ => "DEC"
  | .rdstat => "RDSTAT"
  | .rdkey _ => "RDKEY"

end Sys2Proof
end

