-- ==== Sys2Proof/Decode.lean ====
section
/-!
DEFINITION. Decoding of a command word, total and rejecting by name (rules R72 to R75), and the encoder, written from the
syntax table of rule R78. Legality is decided here, before any other check of a command (rule R201). `CFG` never changes
how a word is decoded (rule R72).
-/

namespace Sys2Proof

/-- Why a word is illegal (R75). The core answers both alike, with ILLEGAL_CMD (R195). -/
inductive Reject where
  /-- `op` = 0x3 or `op` in 0x8..0xF. -/
  | reservedOpcode
  /-- a nonzero must-be-zero bit of `data` (R73). -/
  | mustBeZero
  deriving DecidableEq, Repr

/-- `cmd_word[35:32]` (R72). -/
def opField (w : CmdWord) : BitVec 4 := w.extractLsb' 32 4

/-- `cmd_word[31:0]` (R72). -/
def dataField (w : CmdWord) : Data := w.extractLsb' 0 32

/-- The `CFG.FMODE` value of a bit (R28). -/
def FMode.ofBit (b : Bool) : FMode := if b then .fSub else .fRef

/-- The bit of a `CFG.FMODE` value (R28). -/
def FMode.bit : FMode → BitVec 1
  | .fRef => 0
  | .fSub => 1

/-- The `CFG.KIDX` value of a bit (R28). -/
def KIdx.ofBit (b : Bool) : KIdx := if b then .k16 else .k15

/-- The bit of a `CFG.KIDX` value (R28). -/
def KIdx.bit : KIdx → BitVec 1
  | .k15 => 0
  | .k16 => 1

/-- The command of an opcode and its data, or why the word is illegal (R73 to R75). -/
def decodeFields (op : BitVec 4) (data : Data) : Except Reject Instr :=
  match op.toNat with
  | 0x0 => if data = 0 then .ok .nop else .error .mustBeZero
  | 0x1 =>
    if data.extractLsb' 2 30 = 0 then
      .ok (.setmode (.ofBit (data.getLsbD 0)) (.ofBit (data.getLsbD 1)))
    else .error .mustBeZero
  | 0x2 => .ok (.keygen data)
  | 0x4 => .ok (.enc data)
  | 0x5 => .ok (.dec data)
  | 0x6 => if data = 0 then .ok .rdstat else .error .mustBeZero
  | 0x7 =>
    if data.extractLsb' 4 28 = 0 then .ok (.rdkey (data.extractLsb' 0 4).toFin)
    else .error .mustBeZero
  | _ => .error .reservedOpcode

/-- The command a word stands for, or why it is illegal: the two fields of R72, decoded. -/
def decode (w : CmdWord) : Except Reject Instr := decodeFields (opField w) (dataField w)

/-- The word of a command (R78): `op ++ data`. -/
def encode : Instr → CmdWord
  | .nop => 0x0#4 ++ 0x00000000#32
  | .setmode fmode kidx => 0x1#4 ++ (kidx.bit ++ fmode.bit).setWidth 32
  | .keygen seed => 0x2#4 ++ seed
  | .enc block => 0x4#4 ++ block
  | .dec block => 0x5#4 ++ block
  | .rdstat => 0x6#4 ++ 0x00000000#32
  | .rdkey idx => 0x7#4 ++ (BitVec.ofFin idx : BitVec 4).setWidth 32

/-- What the decoder reads from an opcode-table word numbered as the table numbers it. A command is ONE 36-bit word
(R72), so a number of 37 bits or more is the word of no command. Log 13. -/
def decodeTableWord (_nbits w : Nat) : Option Instr :=
  if w < 2 ^ 36 then (decode (BitVec.ofNat 36 w)).toOption else none

end Sys2Proof
end

