-- ==== Sys2Proof/Machine/State.lean ====
section
/-!
DEFINITION. The state of the core as plain data (rules R20, R42), the responses it owes and the pins at the clock edges to
come (rules R39, R70), the reasons a step can stop, and the state after reset (rules R42, R221, R222).
-/

namespace Sys2Proof.Machine

/-- The configuration register CFG (R27, R28). Written by SETMODE only (R172). -/
structure Cfg where
  /-- `CFG.FMODE`. -/
  fmode : FMode
  /-- `CFG.KIDX`. -/
  kidx : KIdx
  deriving DecidableEq, Repr

/-- The sticky flags of the status register STATUS (R27, R30). `STATUS.KEYV`, its fourth bit, is `State.keyv`. -/
structure Status where
  /-- `STATUS.OORF`, out-of-range flag (R32). -/
  oorf : Bool
  /-- `STATUS.ILLF`, illegal-command flag (R33). -/
  illf : Bool
  /-- `STATUS.NOKEYF`, no-key flag (R33). -/
  nokeyf : Bool
  deriving DecidableEq, Repr

/-- The outcome codes of a response (R77). `0b11` is never produced, so it is no constructor. -/
inductive RspCode where
  /-- OK, the command executed. -/
  | ok
  /-- ILLEGAL_CMD, the command word is illegal. -/
  | illegalCmd
  /-- NO_KEY, ENC, DEC or RDKEY issued while KEYV = 0. -/
  | noKey
  deriving DecidableEq, Repr

/-- A response: outcome code and data (R76). -/
structure Response where
  /-- `rsp_word[33:32]`. -/
  code : RspCode
  /-- `rsp_word[31:0]`. -/
  data : Data
  deriving DecidableEq, Repr

/-- The causes of a run-time refusal (R190, R194). -/
inductive Cause where
  /-- the issued word selects no row of the opcode map (R195). -/
  | illegalCmd
  /-- ENC, DEC or a legal RDKEY while KEYV = 0 (R196). -/
  | noKey
  deriving DecidableEq, Repr

/-- The pins at one rising edge of `clk` (R70). `rst`, `cmdValid`, `cmdWord` and `rspReady` are driven by the host.
`cmdReady` and `rspDue` are the core's own timing: `cmdReady` is the output `cmd_ready`, and `rspDue` says that the latency of
the oldest owed response is over. The rules fix no number of clocks for them (R240), only that neither stays low for ever
(R71, R211, R222, R242): that is `CoreRun` in Safety.lean. Logs 5 and 18. -/
structure Edge where
  /-- `rst`: synchronous reset, active high. -/
  rst : Bool
  /-- `cmd_valid`: the host presents a command word. -/
  cmdValid : Bool
  /-- `cmd_ready`: the core can accept a command word at this edge. -/
  cmdReady : Bool
  /-- `cmd_word`. -/
  cmdWord : CmdWord
  /-- the core presents the oldest owed response from this edge on. -/
  rspDue : Bool
  /-- `rsp_ready`: the host can take a response word at this edge. -/
  rspReady : Bool
  deriving DecidableEq, Repr

/-- The state. `cfg`, `status` and `rk` are the architectural state of R20; `owed` and `held` are what R39 and R71 keep at
the response port; `edges`, `delivered` and `draws` are the model's own. -/
structure State where
  /-- CFG (R27). -/
  cfg : Cfg
  /-- the sticky flags of STATUS (R30). -/
  status : Status
  /-- `RK[0..15]` (R34). `none` is the spec's state "holds no value" (R42): no schedule exists until a KEYGEN. Log 3. -/
  rk : Option KeySchedule
  /-- the responses of issued commands that the host has not taken, oldest first (R39, R65). -/
  owed : List Response
  /-- `rsp_valid` was high at the last edge and the response was not taken (R71). Log 6. -/
  held : Bool
  /-- the clock edges to come, the next one first. Log 5. -/
  edges : List Edge
  /-- the response words the host has taken, oldest first. Log 8. -/
  delivered : List RspWord
  /-- how many reads of round-key index 16 there have been: the argument of `Config.koor`. Log 2. -/
  draws : Nat
  deriving DecidableEq, Repr

/-- The faults of the core: there are none. Inside a command nothing can go wrong (R193), the run-time errors are answered
commands (R194), and ConfigError happens before a core exists (R191). -/
inductive Fault where
  deriving DecidableEq, Repr

/-- The refusals of the model. -/
inductive Refusal where
  /-- Raised by an arm of `exec` whose instruction has no meaning yet; safe. No arm raises it. -/
  | notModelled (mnemonic : String)
  deriving DecidableEq, Repr

/-- The state right after reset (R42, R221, R222): CFG = 0, every flag 0, RK without value, nothing in flight, no response
presented. The model's own fields start empty: no edge described yet, nothing delivered, no draw made (logs 2, 5, 8). -/
def State.reset : State where
  cfg := ⟨.fRef, .k15⟩
  status := ⟨false, false, false⟩
  rk := none
  owed := []
  held := false
  edges := []
  delivered := []
  draws := 0

end Sys2Proof.Machine
end

