-- ==== Sys2Proof/Machine/Tables.lean ====
section
/-!
DEFINITION. The Table Set: validity (rule R93), its construction (rules R94, R191), and the nine word-indexed spaces with
the one read they have (rules R17, R50, R61).
-/

namespace Sys2Proof.Machine

/-- A listed bit-selection table has the right length and every entry in `0..n-1` (R93 a to d). -/
def selectionValid (n m : Nat) (t : List Nat) : Bool := t.length == m && t.all (· < n)

/-- A listed S-box has 4 rows of 16 entries, each in 0..15 (R93 e). -/
def sboxValid (b : List (List Nat)) : Bool := b.length == 4 && b.all (selectionValid 16 16)

/-- Validity of a Table Set, exactly (a) to (e) of R93 and nothing more. -/
def rawTablesValid (raw : RawTableSet) : Bool :=
  selectionValid 32 32 raw.pc1 && selectionValid 32 24 raw.pc2 && selectionValid 16 24 raw.e &&
    selectionValid 16 16 raw.p && (raw.s.length == 4 && raw.s.all sboxValid)

/-- A list as a vector of a stated length, if it has that length. -/
def toVector? {α : Type} (m : Nat) (l : List α) : Option (Vector α m) :=
  if h : l.length = m then some ⟨l.toArray, by simpa using h⟩ else none

/-- An entry as an index below `n`, if it is one. -/
def toIndex? (n x : Nat) : Option (Fin n) := if h : x < n then some ⟨x, h⟩ else none

/-- A listed bit-selection table as a table of `m` indices below `n`. -/
def selectionTable? (n m : Nat) (t : List Nat) : Option (Vector (Fin n) m) :=
  (t.mapM (toIndex? n)).bind (toVector? m)

/-- A listed row of an S-box as 16 nibbles. -/
def sboxRow? (r : List Nat) : Option (Vector Nibble 16) :=
  (selectionTable? 16 16 r).map fun v => v.map BitVec.ofFin

/-- A listed S-box as 4 rows of 16 nibbles. -/
def sbox? (b : List (List Nat)) : Option (Vector (Vector Nibble 16) 4) :=
  (b.mapM sboxRow?).bind (toVector? 4)

/-- The Table Set of listed tables, where each has its length, shape and domain. -/
def tableSet? (raw : RawTableSet) : Option TableSet :=
  match selectionTable? 32 32 raw.pc1, selectionTable? 32 24 raw.pc2, selectionTable? 16 24 raw.e,
    selectionTable? 16 16 raw.p, (raw.s.mapM sbox?).bind (toVector? 4) with
  | some pc1, some pc2, some e, some p, some s => some ⟨pc1, pc2, e, p, s⟩
  | _, _, _, _, _ => none

/-- `mkTableSet(raw)`: "either a valid Table Set or `ConfigError`" (R94, R191). The only place a ConfigError can arise. -/
def mkTableSet (raw : RawTableSet) : Except ConfigError TableSet :=
  match tableSet? raw with
  | some ts => .ok ts
  | none => .error .configError

/-- A Table Set written down again as lists. -/
def rawTables (ts : TableSet) : RawTableSet where
  pc1 := ts.pc1.toList.map Fin.val
  pc2 := ts.pc2.toList.map Fin.val
  e := ts.e.toList.map Fin.val
  p := ts.p.toList.map Fin.val
  s := ts.s.toList.map fun b => b.toList.map fun r => r.toList.map BitVec.toNat

/-- `TS.S[k][row][col]` (R17, R91). -/
def sboxEntry (ts : TableSet) (k : Fin 4) (row : Fin 4) (col : Fin 16) : Nibble := ts.s[k][row][col]

/-- The nine word-indexed spaces (R50). -/
inductive Space where
  /-- `ROM_E`. -/
  | romE
  /-- `ROM_P`. -/
  | romP
  /-- `ROM_PC1`. -/
  | romPC1
  /-- `ROM_PC2`. -/
  | romPC2
  /-- `ROM_S0` to `ROM_S3`. -/
  | romS (k : Fin 4)
  /-- the round-key file. -/
  | rk
  deriving DecidableEq, Repr

/-- How many words a space has (R50). -/
def Space.words : Space → Nat
  | .romE => 24
  | .romP => 16
  | .romPC1 => 32
  | .romPC2 => 24
  | .romS _ => 64
  | .rk => 16

/-- The word width of a space (R50). -/
def Space.width : Space → Nat
  | .romE => 4
  | .romP => 4
  | .romPC1 => 5
  | .romPC2 => 5
  | .romS _ => 4
  | .rk => 24

/-- `MemRead(space, index)`: one whole word of the space (R17, R61), as a natural number. `none` where the space has no such
word (R50) and, for RK, where it holds no value (R42). An S-box word is at `16*row + col`. -/
def memRead (ts : TableSet) (rk : Option KeySchedule) (sp : Space) (index : Nat) : Option Nat :=
  match sp with
  | .romE => ts.e[index]?.map Fin.val
  | .romP => ts.p[index]?.map Fin.val
  | .romPC1 => ts.pc1[index]?.map Fin.val
  | .romPC2 => ts.pc2[index]?.map Fin.val
  | .romS k =>
    if h : index < 64 then
      some (sboxEntry ts k ⟨index / 16, by omega⟩ ⟨index % 16, by omega⟩).toNat
    else none
  | .rk => rk.bind fun ks => ks[index]?.map BitVec.toNat

end Sys2Proof.Machine
end

