-- ==== Sys2Proof/Machine/Permute.lean ====
section
/-!
DEFINITION. The bit permutation primitive (rule R95) and the bit-field helpers of the notation (rules R12, R14).
-/

namespace Sys2Proof.Machine

/-- `permute(v, T)`: "output bit *i* = input bit `table[i]`", both counted from the least significant bit (R95). -/
def permute {n m : Nat} (v : BitVec n) (t : Vector (Fin n) m) : BitVec m :=
  BitVec.ofFnLE fun i => v.getLsb (t.get i)

/-- `hi16(v) = v[31:16]` (R12). -/
def hi16 (v : BitVec 32) : Half := v.extractLsb' 16 16

/-- `lo16(v) = v[15:0]` (R12). -/
def lo16 (v : BitVec 32) : Half := v.extractLsb' 0 16

/-- `ror16(h, s)`: the 16-bit right rotation (R14). The key schedule computes it by a plain right shift of the duplicated
half (R115); this is the value it must equal. -/
def ror16 (h : Half) (s : Nat) : Half := h.rotateRight s

end Sys2Proof.Machine
end

