-- ==== Sys2Proof/Machine/KeySchedule.lean ====
section
/-!
DEFINITION. The key schedule generator `KS` (rules R110 to R117). It reads PC1 and PC2 and neither mode bit.
-/

namespace Sys2Proof.Machine

/-- The working registers of the key schedule, loaded once per seed and constant for all 16 rounds (R37, R112). -/
structure KeyRegs where
  /-- `CC = C ++ C`. -/
  cc : BitVec 32
  /-- `DD = D ++ D`. -/
  dd : BitVec 32
  deriving DecidableEq, Repr

/-- Steps 1 and 2: PC1, the split into C and D, and the duplication (R111, R112). -/
def loadKeyRegs (ts : TableSet) (seed : Seed) : KeyRegs :=
  let p := permute seed ts.pc1
  let c := hi16 p
  let d := lo16 p
  ⟨c ++ c, d ++ d⟩

/-- The increment of round n (R113). -/
def shiftIncrement (n : Nat) : Nat := if n % 3 = 0 then 2 else 1

/-- The cumulative amount before round n: 0 before round 0, and incremented and reduced modulo 16 by each round (R113). -/
def shiftBefore : Nat → Nat
  | 0 => 0
  | n + 1 => (shiftBefore n + shiftIncrement n) % 16

/-- `shift(n)`: round n uses the amount after its own increment (R113). -/
def shift (n : Nat) : Nat := shiftBefore (n + 1)

/-- Step 4, first half: the low 16 bits of a duplicated register shifted right (R115). -/
def shiftedHalf (reg : BitVec 32) (s : Nat) : Half := lo16 (reg >>> s)

/-- Step 4, second half: `cd_n`, rotated C above rotated D (R116, D4). -/
def roundValue (k : KeyRegs) (n : Nat) : BitVec 32 :=
  shiftedHalf k.cc (shift n) ++ shiftedHalf k.dd (shift n)

/-- `KS(TS, seed)`: the 16 RoundKeys, PC2 applied to each round's value (R117). -/
def KS (ts : TableSet) (seed : Seed) : KeySchedule :=
  let k := loadKeyRegs ts seed
  Vector.ofFn fun n : Fin 16 => permute (roundValue k n) ts.pc2

end Sys2Proof.Machine
end

