-- ==== Sys2Proof/Machine/Operands.lean ====
section
/-!
DEFINITION. The operands of the data path: the halves of a Block (rules R21, R55) and the round key a round uses (rules
R154 to R157).
-/

namespace Sys2Proof.Machine

/-- The two data registers during a transform (R21). They carry nothing from one command to the next (R23). -/
structure Halves where
  /-- L, the Left half. -/
  left : Half
  /-- R, the Right half. -/
  right : Half
  deriving DecidableEq, Repr

/-- `L_0 = b[31:16]`, `R_0 = b[15:0]` (R150). -/
def splitBlock (b : Block) : Halves := ⟨hi16 b, lo16 b⟩

/-- `L ++ R` (R159). The halves are not swapped. -/
def joinHalves (h : Halves) : Block := h.left ++ h.right

/-- The round-key index of round n: ascending for Encrypt (R154), `15 - n` or `16 - n` for Decrypt (R155). -/
def keyIndex (kidx : KIdx) (dir : Direction) (n : Nat) : Nat :=
  match dir, kidx with
  | .encrypt, _ => n
  | .decrypt, .k15 => 15 - n
  | .decrypt, .k16 => 16 - n

/-- The key at an index: `rk[j]` if `j <= 15`, else the draw (R157, R158). -/
def keyAt (rk : KeySchedule) (koor : RoundKey) (j : Nat) : RoundKey := rk[j]?.getD koor

end Sys2Proof.Machine
end

