-- ==== Sys2Proof/Machine/RoundFunction.lean ====
section
/-!
DEFINITION. The round function `F` (rules R130 to R138).
-/

namespace Sys2Proof.Machine

/-- Step 1: the expansion (R131). -/
def expand (ts : TableSet) (r : Half) : BitVec 24 := permute r ts.e

/-- Step 2: key mixing (R132). -/
def mix (x : BitVec 24) (k : RoundKey) : BitVec 24 := x ^^^ k

/-- Step 3: `g_i = m[23-6i : 18-6i]`, group 0 the most significant (R133). -/
def group (m : BitVec 24) (i : Fin 4) : BitVec 6 := m.extractLsb' (18 - 6 * i) 6

/-- The top 2 bits of a group select the row (R134). -/
def groupRow (g : BitVec 6) : Fin 4 := (g.extractLsb' 4 2).toFin

/-- The bottom 4 bits of a group select the column (R134). -/
def groupCol (g : BitVec 6) : Fin 16 := (g.extractLsb' 0 4).toFin

/-- Group i looked up in S-box i (R134). -/
def lookup (ts : TableSet) (m : BitVec 24) (i : Fin 4) : Nibble :=
  sboxEntry ts i (groupRow (group m i)) (groupCol (group m i))

/-- `Sub(TS, m)`: the four nibbles, most significant group first (R135). -/
def sub (ts : TableSet) (m : BitVec 24) : Half :=
  lookup ts m 0 ++ lookup ts m 1 ++ lookup ts m 2 ++ lookup ts m 3

/-- Step 4 chooses what P consumes (R137): the original input under `F_REF`, the substitution output under `F_SUB`. -/
def permutationInput (fmode : FMode) (r y : Half) : Half :=
  match fmode with
  | .fRef => r
  | .fSub => y

/-- `F(TS, fmode, r, k)` (R138). -/
def F (ts : TableSet) (fmode : FMode) (r : Half) (k : RoundKey) : Half :=
  let y := sub ts (mix (expand ts r) k)
  permute (permutationInput fmode r y) ts.p

end Sys2Proof.Machine
end

