-- ==== Sys2Proof/Machine/Feistel.lean ====
section
/-!
DEFINITION. The Feistel rounds and the transform `XF` (rules R150 to R159).
-/

namespace Sys2Proof.Machine

/-- `EncRound` (R151): both right-hand sides use the values from before the round. -/
def encRound (ts : TableSet) (fmode : FMode) (k : RoundKey) (h : Halves) : Halves :=
  ⟨h.right, h.left ^^^ F ts fmode h.right k⟩

/-- `DecRound` (R152): the round function's argument is the Left half. -/
def decRound (ts : TableSet) (fmode : FMode) (k : RoundKey) (h : Halves) : Halves :=
  ⟨h.right ^^^ F ts fmode h.left k, h.left⟩

/-- One round in a Direction (R158). -/
def feistelRound (ts : TableSet) (fmode : FMode) (dir : Direction) (k : RoundKey) (h : Halves) : Halves :=
  match dir with
  | .encrypt => encRound ts fmode k h
  | .decrypt => decRound ts fmode k h

/-- The halves after the first n rounds, rounds 0, 1, ..., n-1 in that order (R150, R158). Rule R214 lets a model expose
them. -/
def xfRounds (ts : TableSet) (cfg : Cfg) (rk : KeySchedule) (dir : Direction) (koor : RoundKey) : Nat → Halves → Halves
  | 0, h => h
  | n + 1, h =>
    feistelRound ts cfg.fmode dir (keyAt rk koor (keyIndex cfg.kidx dir n)) (xfRounds ts cfg rk dir koor n h)

/-- `XF(TS, cfg, rk, dir, b, koor)` (R158): sixteen rounds for both directions, no swap at the end (R159). `koor` is read
only when `dir` is Decrypt and `cfg.kidx` is `K16`. -/
def XF (ts : TableSet) (cfg : Cfg) (rk : KeySchedule) (dir : Direction) (b : Block) (koor : RoundKey) : Block :=
  joinHalves (xfRounds ts cfg rk dir koor 16 (splitBlock b))

end Sys2Proof.Machine
end

