-- ==== Sys2Proof/Machine/Flags.lean ====
section
/-!
DEFINITION. The flags of STATUS and the status word (rules R27, R30 to R33, R174).
-/

namespace Sys2Proof.Machine

/-- `STATUS.KEYV` (R31): 1 exactly while `RK` holds a schedule, so set by KEYGEN as it writes RK and cleared by reset only.
Log 3. -/
def State.keyv (s : State) : Bool := s.rk.isSome

/-- The sticky flag of a refusal's cause is set (R33, R202 b). -/
def Status.refused (f : Status) : Cause → Status
  | .illegalCmd => { f with illf := true }
  | .noKey => { f with nokeyf := true }

/-- `STATUS.OORF <- 1` (R32). -/
def Status.outOfRange (f : Status) : Status := { f with oorf := true }

/-- The status word `CSR` (R27, R174): NOKEYF, ILLF, OORF, KEYV in bits 11 to 8, KIDX and FMODE in bits 1 and 0, every other
bit 0. -/
def State.csr (s : State) : Data :=
  (BitVec.ofBool s.status.nokeyf ++ BitVec.ofBool s.status.illf ++ BitVec.ofBool s.status.oorf ++
    BitVec.ofBool s.keyv ++ 0b000000#6 ++ s.cfg.kidx.bit ++ s.cfg.fmode.bit).setWidth 32

end Sys2Proof.Machine
end

