-- ==== Sys2Proof/Machine/Ops.lean ====
section
/-!
DEFINITION. The named operations on the state: respond, refuse (the core's one run-time error mechanism, rules R194, R202),
write CFG and RK, read round-key index 16, and reset (rules R220 to R222).
-/

namespace Sys2Proof.Machine

/-- The bits of an outcome code (R77). -/
def RspCode.bits : RspCode → BitVec 2
  | .ok => 0b00
  | .illegalCmd => 0b01
  | .noKey => 0b10

/-- The response word `code ++ data` (R76). -/
def Response.word (r : Response) : RspWord := r.code.bits ++ r.data

/-- The code a refusal answers with (R190). -/
def Cause.code : Cause → RspCode
  | .illegalCmd => .illegalCmd
  | .noKey => .noKey

/-- `respond(code, data)` (R17): the response takes the command's place in the response order (R65). -/
def State.respond (s : State) (code : RspCode) (data : Data) : State :=
  { s with owed := s.owed ++ [⟨code, data⟩] }

/-- `raise X` (R202), in full: the one sticky flag of X is set and the response `(X, 0x00000000)` takes the command's place.
Nothing else changes; nothing is saved or vectored. There is no return: the next command executes normally (R203). -/
def State.raise (s : State) (x : Cause) : State :=
  ({ s with status := s.status.refused x }).respond x.code 0

/-- `CFG.FMODE <- fmode`, `CFG.KIDX <- kidx`, always both (R172). -/
def State.writeCfg (s : State) (fmode : FMode) (kidx : KIdx) : State :=
  { s with cfg := ⟨fmode, kidx⟩ }

/-- All of `RK[0..15]` and with it `STATUS.KEYV`, as one atomic update (R61, R120). -/
def State.writeSchedule (s : State) (ks : KeySchedule) : State :=
  { s with rk := some ks }

/-- The side of a Decrypt that reads round-key index 16: under `K16` the read is made once, in round 0 (R157), so
`STATUS.OORF <- 1` (R32) and the draw is used up (R62). Under `K15` no such read is made. -/
def State.readOutOfRange (s : State) : State :=
  match s.cfg.kidx with
  | .k15 => s
  | .k16 => { s with status := s.status.outOfRange, draws := s.draws + 1 }

/-- What an edge with `rst = 1` does (R220 to R222): the reset state, and every owed or presented response is discarded.
What the host still will do and has already taken is not the core's, and a draw once made is never made again (logs 2, 5, 8). -/
def State.takeReset (s : State) : State :=
  { State.reset with edges := s.edges, delivered := s.delivered, draws := s.draws }

end Sys2Proof.Machine
end

