-- ==== Sys2Proof/Machine/Cipher.lean ====
section
/-!
DEFINITION. The commands KEYGEN, ENC and DEC (rules R120, R160, R161). Each effect is written for any Table Set and any
draw, as rule R40 asks; the meaning applies it to this core's tables and to the next draw.
-/

namespace Sys2Proof.Machine

/-- The effect of KEYGEN with the tables `ts` (R120). -/
def State.keygen (ts : TableSet) (seed : Seed) (s : State) : State :=
  (s.writeSchedule (KS ts seed)).respond .ok 0

/-- The effect of ENC with the tables `ts` (R160). `koor` is not read by an Encrypt (R158). -/
def State.enc (ts : TableSet) (koor : RoundKey) (block : Block) (s : State) : State :=
  match s.rk with
  | none => s.raise .noKey
  | some ks => s.respond .ok (XF ts s.cfg ks .encrypt block koor)

/-- The effect of DEC with the tables `ts` and the draw `koor` (R161). -/
def State.dec (ts : TableSet) (koor : RoundKey) (block : Block) (s : State) : State :=
  match s.rk with
  | none => s.raise .noKey
  | some ks => s.readOutOfRange.respond .ok (XF ts s.cfg ks .decrypt block koor)

/-- KEYGEN seed (R120): never refused. -/
def execKeygen (seed : Seed) (s : State) : Host.Outcome State Fault Refusal :=
  .next (s.keygen Config.tables seed)

/-- ENC block (R160). -/
def execEnc (block : Block) (s : State) : Host.Outcome State Fault Refusal :=
  .next (s.enc Config.tables (Config.koor s.draws) block)

/-- DEC block (R161): the draw is the next value of the free choice `Config.koor`. -/
def execDec (block : Block) (s : State) : Host.Outcome State Fault Refusal :=
  .next (s.dec Config.tables (Config.koor s.draws) block)

end Sys2Proof.Machine
end

