-- ==== Sys2Proof/Machine/Control.lean ====
section
/-!
DEFINITION. The control commands NOP, SETMODE, RDSTAT and RDKEY (rules R170 to R178). Their illegal words never reach these
meanings: the decoder refuses them first (rules R195, R201).
-/

namespace Sys2Proof.Machine

/-- NOP (R170): responds `(OK, 0)`, writes nothing. -/
def execNop (s : State) : Host.Outcome State Fault Refusal :=
  .next (s.respond .ok 0)

/-- SETMODE fmode, kidx (R172): both fields of CFG. -/
def execSetmode (fmode : FMode) (kidx : KIdx) (s : State) : Host.Outcome State Fault Refusal :=
  .next ((s.writeCfg fmode kidx).respond .ok 0)

/-- RDSTAT (R174): the status word; reading clears nothing. -/
def execRdstat (s : State) : Host.Outcome State Fault Refusal :=
  .next (s.respond .ok s.csr)

/-- RDKEY idx (R176): NO_KEY while `KEYV = 0`, else `zext_32(RK[idx])`. -/
def execRdkey (idx : Fin 16) (s : State) : Host.Outcome State Fault Refusal :=
  match s.rk with
  | none => .next (s.raise .noKey)
  | some ks => .next (s.respond .ok (ks[idx].setWidth 32))

end Sys2Proof.Machine
end

