-- ==== Sys2Proof/Machine/Dispatch.lean ====
section
/-!
DEFINITION. `exec`: one arm per command of the opcode map (rule R74), each one direct call of its meaning.
-/

namespace Sys2Proof.Machine

/-- The effect of one legal command on the state. -/
def exec (i : Instr) (s : State) : Host.Outcome State Fault Refusal :=
  match i with
  | .nop => Sys2Proof.Machine.execNop s
  | .setmode fmode kidx => Sys2Proof.Machine.execSetmode fmode kidx s
  | .keygen seed => Sys2Proof.Machine.execKeygen seed s
  | .enc block => Sys2Proof.Machine.execEnc block s
  | .dec block => Sys2Proof.Machine.execDec block s
  | .rdstat => Sys2Proof.Machine.execRdstat s
  | .rdkey idx => Sys2Proof.Machine.execRdkey idx s

end Sys2Proof.Machine
end

