-- ==== Sys2Proof/Machine/Ports.lean ====
section
/-!
DEFINITION. The ports at a rising edge of `clk` (rules R70, R71): when a command is issued, when a response is presented and
delivered, and what one edge does.
-/

namespace Sys2Proof.Machine

/-- A command is issued at this edge (R71): `rst = 0`, `cmd_valid = 1`, `cmd_ready = 1`. -/
def Edge.issues (e : Edge) : Bool := !e.rst && e.cmdValid && e.cmdReady

/-- The output `rsp_valid` at this edge: an owed response whose latency is over, or one presented before and not taken
(R71, R240). Log 6. -/
def State.rspValid (s : State) (e : Edge) : Bool := !s.owed.isEmpty && (s.held || e.rspDue)

/-- The output `rsp_word` at this edge: while `rsp_valid` is high, the oldest owed response (R65, R76). While it is low the
output is unspecified and must not be read (R71); that it is `none` there, no word at all, is the model's choice, log 17. -/
def State.rspWord (s : State) (e : Edge) : Option RspWord :=
  if s.rspValid e then s.owed.head?.map Response.word else none

/-- The response port at an edge with `rst = 0` (R71): the presented response is delivered if the host can take it, and is
held unchanged if it cannot. -/
def State.responsePort (s : State) (e : Edge) : State :=
  match s.owed with
  | [] => s
  | r :: rest =>
    if s.rspValid e then
      if e.rspReady then { s with owed := rest, held := false, delivered := s.delivered ++ [r.word] }
      else { s with held := true }
    else s

/-- An issued word is decoded and executed atomically; a word that selects no row of the opcode map is refused with
ILLEGAL_CMD (R64, R195). -/
def issueWord (w : CmdWord) (s : State) : Host.Outcome State Fault Refusal :=
  match decode w with
  | .ok i => exec i s
  | .error _ => .next (s.raise .illegalCmd)

/-- What one rising edge of `clk` does (R71, R220). The response of a command issued at this edge can be presented at the
next edge at the earliest (R240). -/
def clockEdge (e : Edge) (s : State) : Host.Outcome State Fault Refusal :=
  if e.rst then .next s.takeReset
  else if e.issues then issueWord e.cmdWord (s.responsePort e)
  else .next (s.responsePort e)

/-- An edge at which the host offers the word `w`, the core is ready for it, and the response port is idle. -/
def Edge.offering (w : CmdWord) : Edge := ⟨false, true, true, w, false, false⟩

/-- The edge is put in front of the edges to come. -/
def State.nextEdge (s : State) (e : Edge) : State := { s with edges := e :: s.edges }

end Sys2Proof.Machine
end

