-- ==== Sys2Proof/Machine/Step.lean ====
section
/-!
DEFINITION. One step of the machine: the next rising edge of `clk`. The core fetches nothing (rules R24, R68): its commands
come from the host through the command port, so the step reads the pins at the next edge.
-/

namespace Sys2Proof.Machine

/-- One rising edge of `clk`. With no edge described, nothing is offered and the core idles with all its state kept (R211,
R243). -/
def step (s : State) : Host.Outcome State Fault Refusal :=
  match s.edges with
  | [] => .next s
  | e :: rest => clockEdge e { s with edges := rest }

/-- `s` with the command of the opcode-table word `w` issued at the very next edge. A number of 37 bits or more is the word
of no command, and nothing is offered. Logs 7 and 13. -/
def State.withFetchWord (s : State) (_nbits w : Nat) : State :=
  if w < 2 ^ 36 then s.nextEdge (Edge.offering (BitVec.ofNat 36 w)) else s

end Sys2Proof.Machine
end

