-- ==== Sys2Proof/Machine/Assembly.lean ====
section
/-!
DEFINITION. The textual syntax of commands (rules R78, R79): "a command as its mnemonic followed by its operands, one command
per line, numbers in hexadecimal with `0x` or in decimal; `;` starts a comment". How blanks and commas separate the parts of a
line, and that letters of mnemonics are capitals, is not said: log 14.
-/

namespace Sys2Proof.Machine

/-- Blanks and commas separate the parts of a line. -/
def isSeparator (c : Char) : Bool := c == ' ' || c == ',' || c == '\t'

/-- The parts of a line before its comment (R78). -/
def lineParts (line : String) : List String :=
  (((line.toList.takeWhile (· != ';')).splitOnP isSeparator).filter (· != [])).map String.ofList

/-- The value of a digit in a base. -/
def digit? (base : Nat) (c : Char) : Option Nat :=
  let n := c.toNat
  let v := if 48 ≤ n ∧ n ≤ 57 then n - 48
    else if 65 ≤ n ∧ n ≤ 70 then n - 55
    else if 97 ≤ n ∧ n ≤ 102 then n - 87
    else base
  if v < base then some v else none

/-- The value of a nonempty row of digits. -/
def digits? (base : Nat) (ds : List Char) : Option Nat :=
  if ds = [] then none else ds.foldlM (fun acc c => (digit? base c).map (base * acc + ·)) 0

/-- A number, in hexadecimal with `0x` or in decimal (R78). -/
def number? (part : String) : Option Nat :=
  match part.toList with
  | '0' :: 'x' :: ds => digits? 16 ds
  | ds => digits? 10 ds

/-- A 32-bit operand: a seed or a block (R73). -/
def data? (part : String) : Option Data :=
  (number? part).bind fun n => if n < 2 ^ 32 then some (BitVec.ofNat 32 n) else none

/-- A round number 0..15 (R78). -/
def roundNumber? (part : String) : Option (Fin 16) :=
  (number? part).bind fun n => if h : n < 16 then some ⟨n, h⟩ else none

/-- A name of a `CFG.FMODE` value (R78). -/
def fmode? (part : String) : Option FMode :=
  if part = "F_REF" then some .fRef else if part = "F_SUB" then some .fSub else none

/-- A name of a `CFG.KIDX` value (R78). -/
def kidx? (part : String) : Option KIdx :=
  if part = "K15" then some .k15 else if part = "K16" then some .k16 else none

/-- A Direction, as the pseudo-command `transform_block` names it (R79). -/
def direction? (part : String) : Option Direction :=
  if part = "Encrypt" then some .encrypt else if part = "Decrypt" then some .decrypt else none

/-- The command, or pseudo-command, with no operand that a name stands for. -/
def plainCommand? (name : String) : Option Instr :=
  if name = "NOP" then some .nop
  else if name = "RDSTAT" then some .rdstat
  else if name = "MODE_DOC" then some .modeDoc
  else if name = "MODE_REFERENCE" then some .modeReference
  else if name = "MODE_CORRECTED" then some .modeCorrected
  else none

/-- The command of a name and one operand. -/
def unaryCommand? (name x : String) : Option Instr :=
  if name = "KEYGEN" then (data? x).map .keygen
  else if name = "ENC" then (data? x).map .enc
  else if name = "DEC" then (data? x).map .dec
  else if name = "RDKEY" then (roundNumber? x).map .rdkey
  else if name = "generate_schedule" then (data? x).map .generateSchedule
  else none

/-- The command of a name and two operands. -/
def binaryCommand? (name x y : String) : Option Instr :=
  if name = "SETMODE" then (fmode? x).bind fun f => (kidx? y).map fun k => .setmode f k
  else if name = "transform_block" then (data? x).bind fun b => (direction? y).map fun d => .transformBlock b d
  else none

/-- The command a line writes, if it writes one (R78, R79). -/
def command? (line : String) : Option Instr :=
  match lineParts line with
  | [name] => plainCommand? name
  | [name, x] => unaryCommand? name x
  | [name, x, y] => binaryCommand? name x y
  | _ => none

/-- The command word a line writes (R78). -/
def assembleLine (line : String) : Option CmdWord := (command? line).map encode

end Sys2Proof.Machine
end

