-- ==== Sys2Proof/Machine/Fixtures.lean ====
section
/-!
DEFINITION. The two made-up Table Sets of 95_test_vectors.md section 2 (decision D23), on which the spec's worked examples are
computed: the spec's own fixtures, "not the tables of euler357/cdes". The core's tables are `Config.tables`, not these.
-/

namespace Sys2Proof.Machine

/-- TID, the identity-like set. -/
def tid : TableSet where
  pc1 := Vector.ofFn id
  pc2 := Vector.ofFn fun i => ⟨i, by omega⟩
  e := Vector.ofFn fun i => ⟨i % 16, by omega⟩
  p := Vector.ofFn id
  s := Vector.ofFn fun _ => Vector.ofFn fun _ => Vector.ofFn fun col => BitVec.ofFin col

/-- The S-box formula of TFIX. -/
def tfixEntry (k row col : Nat) : Nibble := BitVec.ofNat 4 (col * col + (2 * k + 1) * col + 5 * row + 3 * k)

/-- TFIX, the formula-generated set. -/
def tfix : TableSet where
  pc1 := Vector.ofFn fun i => ⟨(11 * i + 5) % 32, by omega⟩
  pc2 := Vector.ofFn fun i => ⟨(7 * i + 2) % 32, by omega⟩
  e := Vector.ofFn fun i => ⟨(4 * (i / 6) + i % 6 + 15) % 16, by omega⟩
  p := Vector.ofFn fun i => ⟨(5 * i + 3) % 16, by omega⟩
  s := Vector.ofFn fun k => Vector.ofFn fun row => Vector.ofFn fun col => tfixEntry k row col

end Sys2Proof.Machine
end

