-- ==== Sys2Proof/Safety.lean ====
section
/-!
DEFINITION. What counts as a good state and a good run: the invariant of the core, the host's side of the handshake (rules
R71, R231), the sequential reference the consistency model is measured against (rule R64), the runs without end with the
fairness of the core and of the host (rules R211, R222, R242), and the conditions of the round-trip law (rule R165).
-/

namespace Sys2Proof.Machine

/-- A response whose code is not OK has data 0 (R76). -/
def Response.proper (r : Response) : Prop := r.code ≠ .ok → r.data = 0

/-- The code bits of a response word (R76). -/
def rspCode (w : RspWord) : BitVec 2 := w.extractLsb' 32 2

/-- The data bits of a response word (R76). -/
def rspData (w : RspWord) : Data := w.extractLsb' 0 32

/-- A response word the core can produce: its code is never `0b11`, and its data is 0 whenever its code is not OK
(R76, R77). -/
def properWord (w : RspWord) : Prop := rspCode w ≠ 0b11 ∧ (rspCode w ≠ 0b00 → rspData w = 0)

/-- The invariant of the core: `RK`, when it holds a value, is the schedule of some seed (R35, R118); every owed response
and every delivered word is one the core may produce (R76, R77); and a response is held only while one is owed (R71). -/
def State.Inv (s : State) : Prop :=
  (∀ ks, s.rk = some ks → ∃ seed, ks = KS Config.tables seed) ∧
    (∀ r ∈ s.owed, r.proper) ∧ (∀ w ∈ s.delivered, properWord w) ∧ (s.held = true → s.owed ≠ [])

/-- A word offered at an edge and not accepted. The host must hold `cmd_word` unchanged while it waits (R71, R231). -/
def Edge.waiting (e : Edge) : Bool := !e.rst && e.cmdValid && !e.cmdReady

/-- A host that holds its word until it is accepted: a word not accepted is offered again, unchanged, at the next edge. R71
and R231 ask that `cmd_word` be held while `cmd_valid` is high and `cmd_ready` low; whether the host may lower `cmd_valid` before
the word is accepted they leave open, and that it does not is the model's choice, log 16. The step does not rest on it
(log 5). -/
def hostKeepsWord : List Edge → Bool
  | [] => true
  | [_] => true
  | e :: e' :: es =>
    (!e.waiting || e'.rst || (e'.cmdValid && e'.cmdWord == e.cmdWord)) && hostKeepsWord (e' :: es)

/-- The words issued at a row of edges, in order (R71). -/
def issuedWords (es : List Edge) : List CmdWord := (es.filter Edge.issues).map Edge.cmdWord

/-- The sequential reference of R64: `exec(ck, ... exec(c2, exec(c1, S0)))`, each issued word executed atomically in issue
order. -/
def issueAll : List CmdWord → State → Host.Outcome State Fault Refusal
  | [], s => .next s
  | w :: ws, s =>
    match issueWord w s with
    | .next t => issueAll ws t
    | .fault r => .fault r
    | .refused r => .refused r

/-- A run without end: `es n` is what happens at the pins at the n-th edge, and `ss n` is the state before it. -/
def IsRun (ss : Nat → State) (es : Nat → Edge) : Prop := ∀ n, step ((ss n).nextEdge (es n)) = .next (ss (n + 1))

/-- From edge n on `rst` stays low. -/
def NoResetFrom (es : Nat → Edge) (n : Nat) : Prop := ∀ m, n ≤ m → (es m).rst = false

/-- At edge n a response is presented and the host does not take it. -/
def Withheld (ss : Nat → State) (es : Nat → Edge) (n : Nat) : Prop :=
  (ss n).rspValid (es n) = true ∧ (es n).rspReady = false

/-- The host eventually takes every response (R231, R242): it withholds none for ever. -/
def HostTakes (ss : Nat → State) (es : Nat → Edge) : Prop := ∀ n, ∃ m, n ≤ m ∧ ¬ Withheld ss es m

/-- The core raises `cmd_ready` again and again (R211, R222, R242): after every edge, unless `rst` comes back, it is high within
a finite number of clocks, or else the host withholds a response for ever, in which case "the core may stop accepting commands".
Log 18. -/
def CoreAccepts (ss : Nat → State) (es : Nat → Edge) : Prop :=
  ∀ n, NoResetFrom es n →
    (∃ m, n ≤ m ∧ (es m).cmdReady = true) ∨ ∃ m, n ≤ m ∧ ∀ k, m ≤ k → Withheld ss es k

/-- Every latency is finite (R240, R242): while a response is owed, one is eventually presented, unless `rst` comes back.
Log 18. -/
def CorePresents (ss : Nat → State) (es : Nat → Edge) : Prop :=
  ∀ n, NoResetFrom es n → (ss n).owed ≠ [] → ∃ m, n ≤ m ∧ (ss m).rspValid (es m) = true

/-- A run of this core: its steps, with the "weak fairness of the core's step" of R242. That `cmd_ready` and the latencies of
such a run are no freer than R211, R222, R240 and R242 leave them is said here and not in `step`. -/
def CoreRun (ss : Nat → State) (es : Nat → Edge) : Prop := IsRun ss es ∧ CoreAccepts ss es ∧ CorePresents ss es

/-- Two states with the same architectural state (R20) and the same draws made. -/
def State.sameCore (s t : State) : Prop := s.cfg = t.cfg ∧ s.status = t.status ∧ s.rk = t.rk ∧ s.draws = t.draws

/-- All response words for the commands so far, taken and owed, in issue order (R65). -/
def State.answers (s : State) : List RspWord := s.delivered ++ s.owed.map Response.word

/-- The mode pairs under which DEC inverts ENC: all but (`F_SUB`, `K16`) (R165). -/
def Cfg.invertible (c : Cfg) : Bool := !(c.fmode == .fSub && c.kidx == .k16)

/-- The state after a command that answers OK with `data` and does nothing else: one response more, every other field as it
was. -/
def State.answering (s : State) (data : Data) : State := { s with owed := s.owed ++ [⟨.ok, data⟩] }

/-- The state after a refusal with ILLEGAL_CMD (R195): ILLF set, the response `(ILLEGAL_CMD, 0)`, every other field as it
was. -/
def State.afterIllegalCmd (s : State) : State :=
  { s with status := { s.status with illf := true }, owed := s.owed ++ [⟨.illegalCmd, 0⟩] }

/-- The state after a refusal with NO_KEY (R196): NOKEYF set, the response `(NO_KEY, 0)`, every other field as it was. -/
def State.afterNoKey (s : State) : State :=
  { s with status := { s.status with nokeyf := true }, owed := s.owed ++ [⟨.noKey, 0⟩] }

/-- The transform written as the one loop of R158, on the pair (L, R) and the round numbers 0 to 15. Encrypt reads `rk[n]`; the
draw stands in the Decrypt branch alone. -/
def transformLoop (ts : TableSet) (cfg : Cfg) (rk : KeySchedule) (dir : Direction) (b : Block) (koor : RoundKey) : Block :=
  let lr := Fin.foldl 16 (fun (lr : Half × Half) (n : Fin 16) =>
    if dir = .encrypt then (lr.2, lr.1 ^^^ F ts cfg.fmode lr.2 rk[n])
    else
      let j := if cfg.kidx = .k15 then 15 - n.val else 16 - n.val
      let k := if h : j ≤ 15 then rk[j] else koor
      (lr.2 ^^^ F ts cfg.fmode lr.1 k, lr.1)) (b.extractLsb' 16 16, b.extractLsb' 0 16)
  lr.1 ++ lr.2

end Sys2Proof.Machine
end

