-- ==== Sys2Proof/Certificates/Slice0/Obligations.lean ====
section
/-!
DEFINITION. What is claimed of the model, from the numbered rules of the spec. Every statement about tables holds for every
valid Table Set, and every statement about this core's own tables and draws holds whatever `Config.tables` and `Config.koor`
are (rules R7, R157). The worked examples, and they alone, are about the spec's made-up Table Sets TID and TFIX.
-/

open Sys2Proof Sys2Proof.Machine

/-! ### Encoding -/

/-- R73, R78: decoding the word of a command gives the command back, every operand at every value. -/
def Obligations.DecodeInvertsEncode : Prop := ∀ i : Instr, decode (encode i) = .ok i

/-- R72 to R74: a legal word is the word of the command it decodes to, so no bit of it is dropped. -/
def Obligations.EncodeInvertsDecode : Prop := ∀ (w : CmdWord) (i : Instr), decode w = .ok i → encode i = w

/-- R74: the decoder accepts exactly the words that select a row of the opcode map, gives a command of that row's mnemonic,
and no word selects two rows. -/
def Obligations.DecoderFollowsTheOpcodeMap : Prop :=
  (∀ w : CmdWord, (∃ i, decode w = .ok i) ↔ legalWord w = true) ∧
    (∀ (w : CmdWord) (i : Instr), decode w = .ok i → ∃ r ∈ opcodeMap, r.mnemonic = i.mnemonic ∧ r.selects w = true) ∧
    ∀ (w : CmdWord), ∀ r ∈ opcodeMap, ∀ r' ∈ opcodeMap, r.selects w = true → r'.selects w = true → r = r'

/-- R75, R195: the illegal words are the listed ones; each is issued like any other word and refused with ILLEGAL_CMD, sets
ILLF and changes nothing else. -/
def Obligations.IllegalWordsAreTheListedOnesAndRefused : Prop :=
  ∀ w : CmdWord,
    (legalWord w = false ↔
      (opField w = 0x3 ∨ 0x8 ≤ (opField w).toNat) ∨
      ((opField w = 0x0 ∨ opField w = 0x6) ∧ dataField w ≠ 0) ∨
      (opField w = 0x1 ∧ (dataField w).extractLsb' 2 30 ≠ 0) ∨
      (opField w = 0x7 ∧ (dataField w).extractLsb' 4 28 ≠ 0)) ∧
    (legalWord w = false → ∀ s : State, issueWord w s = .next s.afterIllegalCmd)

/-- R73, R74, R78: words written out from the spec's encoding of each command. -/
def Obligations.SpecWordsDecodeToTheirCommands : Prop :=
  decode 0x000000000 = .ok .nop ∧
    decode 0x100000001 = .ok (.setmode .fSub .k15) ∧ decode 0x100000002 = .ok (.setmode .fRef .k16) ∧
    decode 0x212345678 = .ok (.keygen 0x12345678) ∧ decode 0x4DEADBEEF = .ok (.enc 0xDEADBEEF) ∧
    decode 0x59EEE0C96 = .ok (.dec 0x9EEE0C96) ∧ decode 0x600000000 = .ok .rdstat ∧
    decode 0x70000000B = .ok (.rdkey 11)

/-- R78, R79: lines of the textual syntax and the words they write. How a line is cut into parts is the model's choice,
log 14. -/
def Obligations.SyntaxLinesWriteTheirWords : Prop :=
  assembleLine "NOP" = some 0x000000000 ∧ assembleLine "SETMODE F_SUB, K16 ; all ones" = some 0x100000003 ∧
    assembleLine "KEYGEN 0x12345678" = some 0x212345678 ∧ assembleLine "ENC 0xDEADBEEF" = some 0x4DEADBEEF ∧
    assembleLine "DEC 10" = some 0x50000000A ∧ assembleLine "RDSTAT" = some 0x600000000 ∧
    assembleLine "RDKEY 15" = some 0x70000000F ∧ assembleLine "RDKEY 16" = none ∧
    assembleLine "generate_schedule 1" = some 0x200000001 ∧
    assembleLine "transform_block 1, Encrypt" = some 0x400000001 ∧
    assembleLine "transform_block 1, Decrypt" = some 0x500000001 ∧
    assembleLine "MODE_DOC" = some 0x100000000 ∧ assembleLine "MODE_REFERENCE" = some 0x100000002 ∧
    assembleLine "MODE_CORRECTED" = some 0x100000001

/-! ### The machine: edges, issue, delivery, reset -/

/-- R64, R71: a command issued at the next edge is decoded and executed. That it is executed after the response port has done
its part of the edge is the model's reading of R240, log 4; that the edges to come are a list in State is its choice, log 5. -/
def Obligations.StepRunsTheDecodedCommand : Prop :=
  ∀ (s : State) (e : Edge) (rest : List Edge) (i : Instr),
    s.edges = e :: rest → e.issues = true → decode e.cmdWord = .ok i →
      step s = exec i (State.responsePort { s with edges := rest } e)

/-- The command of an opcode-table word, offered at the very next edge, is run by the very next step, in every state. -/
def Obligations.OfferedTableWordRunsNext : Prop :=
  ∀ (s : State) (nbits w : Nat) (i : Instr),
    decodeTableWord nbits w = some i → step (s.withFetchWord nbits w) = exec i s

/-- R201: legality is checked first. An illegal word issued at the next edge is refused with ILLEGAL_CMD whatever else holds,
so an RDKEY with nonzero must-be-zero bits before any KEYGEN sets ILLF only. That the response port does its part of the edge
before the refusal is the model's reading of R240, log 4; the list of edges is its choice, log 5. -/
def Obligations.StepRefusesAnIllegalWordFirst : Prop :=
  ∀ (s : State) (e : Edge) (rest : List Edge), s.edges = e :: rest → e.issues = true → legalWord e.cmdWord = false →
    step s = .next (State.responsePort { s with edges := rest } e).afterIllegalCmd

/-- R211: an edge at which no command is issued and `rst` is low keeps all of the architectural state, and so does a step with
no edge to come (log 5). -/
def Obligations.IdleStepKeepsTheCore : Prop :=
  (∀ s : State, s.edges = [] → step s = .next s) ∧
    ∀ (s : State) (e : Edge) (rest : List Edge), s.edges = e :: rest → e.rst = false → e.issues = false →
      ∃ t, step s = .next t ∧ t.sameCore s ∧ t.edges = rest ∧ t.answers = s.answers

/-- R42, R221, R222: the state right after reset. -/
def Obligations.ResetStateIsAsListed : Prop :=
  State.reset.cfg = ⟨.fRef, .k15⟩ ∧ State.reset.keyv = false ∧ State.reset.rk = none ∧
    State.reset.status = ⟨false, false, false⟩ ∧ State.reset.owed = [] ∧ State.reset.csr = 0 ∧
    ∀ e, State.reset.rspValid e = false

/-- R220, R221, R222: an edge with `rst = 1` gives the reset state, whatever else is happening: a word offered at it is not
issued, every owed response is discarded, RK becomes valueless and every command that would read it a refusal. Reset is the
only thing that clears KEYV or a sticky flag. -/
def Obligations.ResetClearsTheCoreAndNothingElseDoes : Prop :=
  (∀ (s : State) (e : Edge) (rest : List Edge), s.edges = e :: rest → e.rst = true →
    ∃ t, step s = .next t ∧ t.cfg = ⟨.fRef, .k15⟩ ∧ t.status = ⟨false, false, false⟩ ∧ t.keyv = false ∧ t.rk = none ∧
      t.owed = [] ∧ (∀ e', t.rspValid e' = false) ∧
      (∀ b, exec (.enc b) t = .next t.afterNoKey) ∧ (∀ b, exec (.dec b) t = .next t.afterNoKey) ∧
      ∀ k, exec (.rdkey k) t = .next t.afterNoKey) ∧
  ∀ (s t : State) (e : Edge) (rest : List Edge), s.edges = e :: rest → e.rst = false → step s = .next t →
    (s.keyv = true → t.keyv = true) ∧ (s.status.oorf = true → t.status.oorf = true) ∧
      (s.status.illf = true → t.status.illf = true) ∧ (s.status.nokeyf = true → t.status.nokeyf = true)

/-- R65, R193: every step gives a next state; nothing faults and nothing is stuck. -/
def Obligations.EveryStepContinues : Prop := ∀ s : State, ∃ t, step s = .next t

/-- R65, R76, R77: every command gives a next state with exactly one response more, the last in the order, with data 0 if its
code is not OK; the ports are otherwise untouched. The word of a response has the code in bits 33:32, 0b00 for OK, 0b01 for
ILLEGAL_CMD and 0b10 for NO_KEY, and the data, bit for bit, in bits 31:0. -/
def Obligations.EveryCommandAnswersExactlyOnce : Prop :=
  (∀ (i : Instr) (s : State), ∃ t r, exec i s = .next t ∧ t.owed = s.owed ++ [r] ∧ r.proper ∧ t.held = s.held ∧
    t.edges = s.edges ∧ t.delivered = s.delivered) ∧
  ∀ r : Response, rspData r.word = r.data ∧ (r.code = .ok → rspCode r.word = 0b00) ∧
    (r.code = .illegalCmd → rspCode r.word = 0b01) ∧ (r.code = .noKey → rspCode r.word = 0b10)

/-- R71: while `rsp_valid = 1` and `rsp_ready = 0`, the core holds `rsp_word` unchanged, and presents it at the next edge
(log 6), whatever command is issued in between. A response is delivered exactly at an edge with `rst = 0`, `rsp_valid = 1` and
`rsp_ready = 1`, and it is the presented one, which is the oldest owed; at every other edge nothing is delivered (what was taken
before is the host's record, log 8), and without reset no owed response is lost (R65). -/
def Obligations.UntakenResponseIsHeld : Prop :=
  (∀ (s t : State) (e : Edge) (rest : List Edge), s.edges = e :: rest → e.rst = false → s.rspValid e = true →
    e.rspReady = false → step s = .next t → t.delivered = s.delivered ∧
      ∀ e', t.rspValid e' = true ∧ t.rspWord e' = s.rspWord e) ∧
  (∀ (s t : State) (e : Edge) (rest : List Edge), s.edges = e :: rest → e.rst = false → s.rspValid e = true →
    e.rspReady = true → step s = .next t → ∃ r later, s.owed = r :: later ∧ s.rspWord e = some r.word ∧
      t.delivered = s.delivered ++ [r.word] ∧ later <+: t.owed) ∧
  ∀ (s t : State) (e : Edge) (rest : List Edge), s.edges = e :: rest →
    e.rst = true ∨ s.rspValid e = false → step s = .next t →
      t.delivered = s.delivered ∧ (e.rst = false → s.owed <+: t.owed)

/-- R71, R231: if the host holds an offered word until it is accepted (that it does not lower `cmd_valid` meanwhile is the
model's premise, log 16), the first word issued after an edge at which a word was offered and not accepted is that word. -/
def Obligations.WaitingWordIsTheNextIssued : Prop :=
  ∀ (e : Edge) (es : List Edge), hostKeepsWord (e :: es) = true → e.waiting = true → (∀ x ∈ es, x.rst = false) →
    ∀ w ws, issuedWords es = w :: ws → w = e.cmdWord

/-- R64, R65: along any row of edges without reset, whatever the handshake timing, the core ends as if the issued words had
been executed one by one in issue order, and the responses, taken and owed, are those of the issued words in the same order,
exactly one for each. The list of edges and the record of taken responses are the model's choices, logs 5 and 8. -/
def Obligations.RunFollowsIssueOrder : Prop :=
  ∀ (s : State) (es : List Edge), s.edges = es → (∀ e ∈ es, e.rst = false) →
    ∃ t u, Sys2Proof.core.run es.length s = .next t ∧ issueAll (issuedWords es) s = .next u ∧ t.sameCore u ∧
      t.edges = [] ∧ t.answers = u.answers ∧ u.answers.length = s.answers.length + (issuedWords es).length

/-- R242: if every owed response becomes due and the host takes it, then after as many edges as responses are owed each has
been delivered, in order. -/
def Obligations.OwedResponsesAreAllDelivered : Prop :=
  ∀ (s : State) (es : List Edge), s.edges = es → es.length = s.owed.length →
    (∀ e ∈ es, e.rst = false ∧ e.cmdValid = false ∧ e.rspDue = true ∧ e.rspReady = true) →
      ∃ t, Sys2Proof.core.run es.length s = .next t ∧ t.owed = [] ∧ t.sameCore s ∧
        t.delivered = s.delivered ++ s.owed.map Response.word

/-- R242, R222, R211, in the runs of the core (its weak fairness, log 18; the edges of a run, log 5), as long as `rst` stays
low. If the host eventually takes every response, every response owed or delivered so far is eventually delivered, in order,
and `cmd_ready` is high again and again. After a reset, `cmd_ready` is high within a finite number of clocks whatever the host
does, and the first command that can be issued sees the reset state. While nothing is offered, all of the architectural state
is kept. -/
def Obligations.FairRunsAnswerAndAccept : Prop :=
  ∀ (ss : Nat → State) (es : Nat → Edge), CoreRun ss es →
    (∀ n, NoResetFrom es n → HostTakes ss es →
      (∃ m, n ≤ m ∧ (ss n).answers <+: (ss m).delivered) ∧ ∃ m, n ≤ m ∧ (es m).cmdReady = true) ∧
    (∀ n, (es n).rst = true → NoResetFrom es (n + 1) →
      ∃ m, n < m ∧ (es m).cmdReady = true ∧ (∀ k, n < k → k < m → (es k).cmdReady = false) ∧
        (ss m).cfg = ⟨.fRef, .k15⟩ ∧ (ss m).status = ⟨false, false, false⟩ ∧ (ss m).rk = none ∧ (ss m).owed = []) ∧
    ∀ n, NoResetFrom es n → (∀ m, n ≤ m → (es m).cmdValid = false) → ∀ m, n ≤ m → (ss m).sameCore (ss n)

/-- The invariant holds after reset. -/
def Obligations.ResetHasTheInvariant : Prop := State.reset.Inv

/-- Every step keeps the invariant: RK, when it holds a value, is the schedule of some seed (R35); every response is one the
core may produce (R76, R77); a response is held only while one is owed (R71). -/
def Obligations.StepKeepsTheInvariant : Prop := ∀ s t : State, s.Inv → step s = .next t → t.Inv

/-! ### The commands: encoding, result, frame, refusals. `answering`, `afterIllegalCmd` and `afterNoKey` leave every field
they do not name as it was, so each equation is the command's frame too. -/

/-- R170: NOP. -/
def Obligations.NopCommand : Prop :=
  decode 0x000000000 = .ok .nop ∧ (∀ s : State, exec .nop s = .next (s.answering 0)) ∧
    ∀ (data : Data) (s : State), data ≠ 0 → issueWord (0x0#4 ++ data) s = .next s.afterIllegalCmd

/-- R172: SETMODE writes both fields of CFG, always both; no flag, not RK. -/
def Obligations.SetmodeCommand : Prop :=
  (∀ data : Data, data.extractLsb' 2 30 = 0 →
    decode (0x1#4 ++ data) =
      .ok (.setmode (if data.getLsbD 0 then .fSub else .fRef) (if data.getLsbD 1 then .k16 else .k15))) ∧
  (∀ (s : State) (fmode : FMode) (kidx : KIdx),
    exec (.setmode fmode kidx) s = .next (State.answering { s with cfg := ⟨fmode, kidx⟩ } 0)) ∧
  (∀ (data : Data) (s : State), data.extractLsb' 2 30 ≠ 0 → issueWord (0x1#4 ++ data) s = .next s.afterIllegalCmd) ∧
  ∀ s : State, ∃ t, issueWord 0x100000001 s = .next t ∧ t.csr.getLsbD 0 = true ∧ t.csr.getLsbD 1 = false

/-- R120: KEYGEN writes all of RK and with it KEYV, whatever RK held; no sticky flag, not CFG; it is never refused. With the
worked example on TID. -/
def Obligations.KeygenCommand : Prop :=
  (∀ data : Data, decode (0x2#4 ++ data) = .ok (.keygen data)) ∧
  (∀ (s : State) (seed : Seed), ∃ t, exec (.keygen seed) s = .next t ∧ t.keyv = true ∧
    t = State.answering { s with rk := some (KS Config.tables seed) } 0) ∧
  hi16 (permute 0x12345678 tid.pc1) = 0x1234 ∧ lo16 (permute 0x12345678 tid.pc1) = 0x5678 ∧ shift 0 = 2 ∧
  ror16 0x1234 2 = 0x048D ∧ ror16 0x5678 2 = 0x159E ∧ roundValue (loadKeyRegs tid 0x12345678) 0 = 0x048D159E ∧
  (KS tid 0x12345678)[0] = 0x8D159E ∧ shift 11 = 0 ∧ (KS tid 0x12345678)[11] = 0x345678

/-- R160: ENC answers the transform under Encrypt and writes nothing; without a schedule it is refused with NO_KEY; KIDX has no
effect. With the worked example on TFIX. -/
def Obligations.EncCommand : Prop :=
  (∀ data : Data, decode (0x4#4 ++ data) = .ok (.enc data)) ∧
  (∀ (s : State) (b : Block) (ks : KeySchedule) (koor : RoundKey), s.rk = some ks →
    exec (.enc b) s = .next (s.answering (XF Config.tables s.cfg ks .encrypt b koor))) ∧
  (∀ (s : State) (b : Block), s.keyv = false → exec (.enc b) s = .next s.afterNoKey) ∧
  (∀ (fmode : FMode) (kidx kidx' : KIdx) (ks : KeySchedule) (b : Block) (koor koor' : RoundKey),
    XF Config.tables ⟨fmode, kidx⟩ ks .encrypt b koor = XF Config.tables ⟨fmode, kidx'⟩ ks .encrypt b koor') ∧
  XF tfix ⟨.fRef, .k15⟩ (KS tfix 0x12345678) .encrypt 0xDEADBEEF 0x000000 = 0x9EEE0C96 ∧
  XF tfix ⟨.fSub, .k15⟩ (KS tfix 0x12345678) .encrypt 0xDEADBEEF 0x000000 = 0xBB815994

/-- R161: DEC answers the transform under Decrypt. Under `K15` it writes nothing; under `K16` the key of round 0 is a draw, and
OORF is set. Without a schedule it is refused with NO_KEY and OORF is not set. Under (`F_SUB`, `K16`) the answer can depend on
the draw; under `F_REF` it depends neither on it nor on KIDX. With the worked example on TFIX. The model's own counter of draws
(log 2) is left open. -/
def Obligations.DecCommand : Prop :=
  (∀ data : Data, decode (0x5#4 ++ data) = .ok (.dec data)) ∧
  (∀ (s : State) (b : Block) (ks : KeySchedule) (koor : RoundKey), s.rk = some ks → s.cfg.kidx = .k15 →
    exec (.dec b) s = .next (s.answering (XF Config.tables s.cfg ks .decrypt b koor))) ∧
  (∀ (s : State) (b : Block) (ks : KeySchedule), s.rk = some ks → s.cfg.kidx = .k16 →
    ∃ (koor : RoundKey) (n : Nat), exec (.dec b) s = .next (State.answering
      { s with status := { s.status with oorf := true }, draws := n }
      (XF Config.tables s.cfg ks .decrypt b koor))) ∧
  (∀ (s : State) (b : Block), s.keyv = false → exec (.dec b) s = .next s.afterNoKey) ∧
  (∀ (kidx kidx' : KIdx) (ks : KeySchedule) (b : Block) (koor koor' : RoundKey),
    XF Config.tables ⟨.fRef, kidx⟩ ks .decrypt b koor = XF Config.tables ⟨.fRef, kidx'⟩ ks .decrypt b koor') ∧
  (∃ (ts : TableSet) (ks : KeySchedule) (b : Block) (koor koor' : RoundKey),
    XF ts ⟨.fSub, .k16⟩ ks .decrypt b koor ≠ XF ts ⟨.fSub, .k16⟩ ks .decrypt b koor') ∧
  XF tfix ⟨.fRef, .k15⟩ (KS tfix 0x12345678) .decrypt 0x9EEE0C96 0x000000 = 0xDEADBEEF ∧
  XF tfix ⟨.fRef, .k15⟩ (KS tfix 0x12345678) .decrypt 0xDEADBEEF 0x000000 = 0x4043B279

/-- R174, R27: RDSTAT answers the status word, laid out as the rule says, and writes nothing. -/
def Obligations.RdstatCommand : Prop :=
  decode 0x600000000 = .ok .rdstat ∧ (∀ s : State, exec .rdstat s = .next (s.answering s.csr)) ∧
  (∀ s : State,
    s.csr.getLsbD 0 = (s.cfg.fmode == .fSub) ∧ s.csr.getLsbD 1 = (s.cfg.kidx == .k16) ∧
    s.csr.extractLsb' 2 6 = 0 ∧
    s.csr.getLsbD 8 = s.keyv ∧ s.csr.getLsbD 9 = s.status.oorf ∧ s.csr.getLsbD 10 = s.status.illf ∧
    s.csr.getLsbD 11 = s.status.nokeyf ∧ s.csr.extractLsb' 12 20 = 0) ∧
  (∀ (data : Data) (s : State), data ≠ 0 → issueWord (0x6#4 ++ data) s = .next s.afterIllegalCmd) ∧
  State.reset.csr = 0x00000000 ∧
  ∃ t, exec (.keygen 0x12345678) State.reset = .next t ∧ t.csr = 0x00000100

/-- R176: RDKEY answers the round key in `data[23:0]` with zeros above, and writes nothing; without a schedule it is refused
with NO_KEY, but with nonzero must-be-zero bits always with ILLEGAL_CMD. After a KEYGEN it reads the seed's schedule. With the
worked example on TID. -/
def Obligations.RdkeyCommand : Prop :=
  (∀ data : Data, data.extractLsb' 4 28 = 0 → ∃ idx : Fin 16, decode (0x7#4 ++ data) = .ok (.rdkey idx) ∧
    idx.val = data.toNat) ∧
  (∀ (s : State) (idx : Fin 16) (ks : KeySchedule), s.rk = some ks →
    ∃ d : Data, exec (.rdkey idx) s = .next (s.answering d) ∧
      d.extractLsb' 0 24 = ks[idx] ∧ d.extractLsb' 24 8 = 0) ∧
  (∀ (s : State) (idx : Fin 16), s.keyv = false → exec (.rdkey idx) s = .next s.afterNoKey) ∧
  (∀ (data : Data) (s : State), data.extractLsb' 4 28 ≠ 0 → issueWord (0x7#4 ++ data) s = .next s.afterIllegalCmd) ∧
  (∀ (s : State) (seed : Seed) (idx : Fin 16), ∃ t u, exec (.keygen seed) s = .next t ∧ exec (.rdkey idx) t = .next u ∧
    u.owed = s.owed ++ [⟨.ok, 0⟩, ⟨.ok, (KS Config.tables seed)[idx].setWidth 32⟩]) ∧
  (∀ seed : Seed, (KS Config.tables seed)[12] = (KS Config.tables seed)[0]) ∧
  (KS tid 0x12345678)[0].setWidth 32 = 0x008D159E ∧ (KS tid 0x12345678)[11].setWidth 32 = 0x00345678

/-- R196: ENC, DEC and a legal RDKEY while `KEYV = 0`, in every mode, set NOKEYF and answer (NO_KEY, 0); no other state
changes, OORF neither. -/
def Obligations.KeylessCommandsAreRefused : Prop :=
  ∀ (s : State) (i : Instr), s.keyv = false → ((∃ b, i = .enc b) ∨ (∃ b, i = .dec b) ∨ (∃ k, i = .rdkey k)) →
    exec i s = .next s.afterNoKey

/-- R31: KEYV is 0 after reset, is set by every KEYGEN, and no command, legal or illegal, clears it. While it is 0, RK holds no
value, and ENC, DEC and RDKEY are refused with NO_KEY. No other command sets it. -/
def Obligations.KeyvFollowsKeygen : Prop :=
  State.reset.keyv = false ∧ (∀ (s : State) (seed : Seed), ∃ t, exec (.keygen seed) s = .next t ∧ t.keyv = true) ∧
    (∀ (w : CmdWord) (s t : State), issueWord w s = .next t → s.keyv = true → t.keyv = true) ∧
    (∀ s : State, s.keyv = false ↔ s.rk = none) ∧
    (∀ s : State, s.keyv = false → (∀ b, exec (.enc b) s = .next s.afterNoKey) ∧
      (∀ b, exec (.dec b) s = .next s.afterNoKey) ∧ ∀ k, exec (.rdkey k) s = .next s.afterNoKey) ∧
    ∀ (i : Instr) (s t : State), exec i s = .next t → s.keyv = false → t.keyv = true → ∃ seed, i = .keygen seed

/-- R32, R33: exactly which issued words set which sticky flag: OORF a DEC under `K16` that is not refused, whatever FMODE is;
ILLF every illegal word; NOKEYF every ENC, DEC and legal RDKEY while `KEYV = 0`. A refusal of either kind sets its flag, and no
word sets both flags. -/
def Obligations.FlagsAreSetByTheListedCommands : Prop :=
  ∀ (w : CmdWord) (s t : State), issueWord w s = .next t →
    (t.status.oorf = true ↔ s.status.oorf = true ∨ opField w = 0x5 ∧ s.cfg.kidx = .k16 ∧ s.keyv = true) ∧
    (t.status.illf = true ↔ s.status.illf = true ∨ legalWord w = false) ∧
    (t.status.nokeyf = true ↔ s.status.nokeyf = true ∨
      s.keyv = false ∧ (opField w = 0x4 ∨ opField w = 0x5 ∨ opField w = 0x7 ∧ legalWord w = true)) ∧
    (∃ r, t.owed = s.owed ++ [r] ∧ (r.code = .illegalCmd ↔ legalWord w = false) ∧
      (r.code = .illegalCmd → t.status = { s.status with illf := true }) ∧
      (r.code = .noKey → t.status = { s.status with nokeyf := true }))

/-- R29, R35: which command writes what. RK: KEYGEN only, all of it. CFG: SETMODE only. The model's count of draws (log 2): a
DEC under `K16` with a schedule only. ILLF: no legal command. NOKEYF and OORF: none of NOP, SETMODE, KEYGEN and RDSTAT. -/
def Obligations.EachCommandWritesOnlyItsOwnState : Prop :=
  ∀ (i : Instr) (s t : State), exec i s = .next t →
    ((∀ seed, i ≠ .keygen seed) → t.rk = s.rk) ∧
    ((∀ f k, i ≠ .setmode f k) → t.cfg = s.cfg) ∧
    (¬ ((∃ b, i = .dec b) ∧ s.cfg.kidx = .k16 ∧ s.keyv = true) → t.draws = s.draws) ∧
    t.status.illf = s.status.illf ∧
    ((¬ ∃ b, i = .enc b) → (¬ ∃ b, i = .dec b) → (¬ ∃ k, i = .rdkey k) → t.status = s.status)

/-- R73: "the low two bits RDSTAT returns can be written back with SETMODE unchanged". -/
def Obligations.StatusWordWritesBackWithSetmode : Prop :=
  ∀ s : State, decode (0x1#4 ++ (s.csr &&& 0b11)) = .ok (.setmode s.cfg.fmode s.cfg.kidx)

/-- R163, R164 on the machine: under `F_REF` the responses of ENC and DEC do not depend on the schedule, on KIDX, on the flags
or on the draw. -/
def Obligations.FRefResponsesIgnoreKeysAndKidx : Prop :=
  ∀ (s s' : State) (ks ks' : KeySchedule) (b : Block) (i : Instr), i = .enc b ∨ i = .dec b →
    s.rk = some ks → s'.rk = some ks' → s.cfg.fmode = .fRef → s'.cfg.fmode = .fRef →
      ∃ t t' r, exec i s = .next t ∧ exec i s' = .next t' ∧ t.owed = s.owed ++ [r] ∧ t'.owed = s'.owed ++ [r]

/-- R165 on the machine: in every mode pair but (`F_SUB`, `K16`), the answer of ENC given to DEC is answered with the Block
that was encrypted, and the other way round, whatever is drawn. -/
def Obligations.RoundTripOnTheMachine : Prop :=
  ∀ (s : State) (ks : KeySchedule) (b : Block), s.rk = some ks → s.cfg.invertible = true →
    (∃ c t u, exec (.enc b) s = .next t ∧ t.owed = s.owed ++ [⟨.ok, c⟩] ∧
      exec (.dec c) t = .next u ∧ u.owed = t.owed ++ [⟨.ok, b⟩]) ∧
    ∃ p t u, exec (.dec b) s = .next t ∧ t.owed = s.owed ++ [⟨.ok, p⟩] ∧
      exec (.enc p) t = .next u ∧ u.owed = t.owed ++ [⟨.ok, b⟩]

/-! ### Tables and permute -/

/-- R93, R94, R191: `mkTableSet` gives a Table Set, the listed one, exactly where R93 holds, and ConfigError everywhere else;
every Table Set can be listed and constructed again. -/
def Obligations.TableSetIsConstructedExactlyWhenValid : Prop :=
  (∀ raw : RawTableSet, rawTablesValid raw = true → ∃ ts, mkTableSet raw = .ok ts ∧ rawTables ts = raw) ∧
    (∀ raw : RawTableSet, rawTablesValid raw = false → mkTableSet raw = .error .configError) ∧
    ∀ ts : TableSet, mkTableSet (rawTables ts) = .ok ts

/-- R50, R42: each space has a word exactly below its size, of its width, and it is the entry of its table at that index (of an
S-box, row-major) or the round key; RK has none while it holds no value. -/
def Obligations.SpacesHaveExactlyTheirWords : Prop :=
  ∀ (ts : TableSet) (ks : KeySchedule) (sp : Space) (index : Nat),
    ((memRead ts (some ks) sp index).isSome = true ↔ index < sp.words) ∧
    (∀ v, memRead ts (some ks) sp index = some v → v < 2 ^ sp.width) ∧
    memRead ts none .rk index = none ∧
    (∀ i : Fin 24, memRead ts (some ks) .romE i = some (ts.e[i]).val ∧
      memRead ts (some ks) .romPC2 i = some (ts.pc2[i]).val) ∧
    (∀ i : Fin 16, memRead ts (some ks) .romP i = some (ts.p[i]).val ∧ memRead ts (some ks) .rk i = some (ks[i]).toNat) ∧
    (∀ i : Fin 32, memRead ts (some ks) .romPC1 i = some (ts.pc1[i]).val) ∧
    ∀ (k row : Fin 4) (col : Fin 16),
      memRead ts (some ks) (.romS k) (16 * row.val + col.val) = some (ts.s[k][row][col]).toNat

/-- R98: the four laws of `permute`. -/
def Obligations.PermuteLaws : Prop :=
  (∀ (n m : Nat) (t : Vector (Fin n) m),
    permute 0#n t = 0#m ∧ permute (BitVec.allOnes n) t = BitVec.allOnes m ∧
      ∀ a b : BitVec n, permute (a ^^^ b) t = permute a t ^^^ permute b t) ∧
  ∀ (n : Nat) (v : BitVec n), permute v (Vector.ofFn id) = v

/-- R95: output bit i is input bit `T[i]`, both counted from the least significant bit; under the opposite numbering (bit 0 the
most significant of both) the same function has the table `T'[j] = N-1-T[M-1-j]`. -/
def Obligations.PermuteSelectsBits : Prop :=
  ∀ (n m : Nat) (v : BitVec n) (t : Vector (Fin n) m) (j : Nat) (h : j < m),
    (permute v t).getLsbD j = v.getLsbD (t[j]).val ∧
      (permute v t).getMsbD j = v.getMsbD (n - 1 - (t[m - 1 - j]'(by omega)).val)

/-! ### The key schedule -/

/-- R113: the amount is 0 before round 0; each round adds 2 when `n mod 3 = 0` and 1 otherwise, modulo 16, and uses the amount
after its own increment; the amounts are the literal sequence. -/
def Obligations.ShiftSequenceIsTheLiteralOne : Prop :=
  shiftBefore 0 = 0 ∧
    (∀ n, shiftBefore (n + 1) = (shiftBefore n + if n % 3 = 0 then 2 else 1) % 16 ∧ shift n = shiftBefore (n + 1)) ∧
    (List.range 16).map shiftIncrement = [2, 1, 1, 2, 1, 1, 2, 1, 1, 2, 1, 1, 2, 1, 1, 2] ∧
    (List.range 16).map shift = [2, 3, 4, 6, 7, 8, 10, 11, 12, 14, 15, 0, 2, 3, 4, 6]

/-- R114: before reduction the amount after round n is `n + 1 + ceil((n + 1) / 3)`, so
`shift(n) = (n + 1 + floor((n + 3) / 3)) mod 16`. -/
def Obligations.ShiftHasTheClosedForm : Prop :=
  ∀ n : Nat, ((List.range (n + 1)).map shiftIncrement).sum = n + 1 + (n + 1 + 2) / 3 ∧
    shift n = (n + 1 + (n + 3) / 3) % 16

/-- R14, R115: the low half of a duplicated half shifted right by s is the 16-bit right rotation by s, and the rotation is
`ror16(h, s)[i] = h[(i + s) mod 16]`. -/
def Obligations.ShiftedDuplicateIsTheRotation : Prop :=
  ∀ (h : Half) (s : Nat), s ≤ 15 →
    shiftedHalf (h ++ h) s = ror16 h s ∧ ∀ i, i < 16 → (ror16 h s).getLsbD i = h.getLsbD ((i + s) % 16)

/-- R111 to R117: round key n is PC2 of the two halves of PC1 of the seed, each rotated right by `shift(n)`, C above D. -/
def Obligations.RoundKeyIsPC2OfTheRotatedHalves : Prop :=
  ∀ (ts : TableSet) (seed : Seed) (n : Fin 16),
    (KS ts seed)[n] =
      permute (ror16 (hi16 (permute seed ts.pc1)) (shift n) ++ ror16 (lo16 (permute seed ts.pc1)) (shift n)) ts.pc2

/-- R119: every schedule repeats its first four keys at the end. -/
def Obligations.ScheduleRepeatsItsFirstFourKeys : Prop :=
  ∀ (ts : TableSet) (seed : Seed), (KS ts seed)[12] = (KS ts seed)[0] ∧ (KS ts seed)[13] = (KS ts seed)[1] ∧
    (KS ts seed)[14] = (KS ts seed)[2] ∧ (KS ts seed)[15] = (KS ts seed)[3]

/-- R118 d: the schedules of the all-zero and of the all-ones seed, for every Table Set. -/
def Obligations.SchedulesOfTheConstantSeeds : Prop :=
  ∀ ts : TableSet, KS ts 0x00000000 = Vector.replicate 16 0x000000 ∧ KS ts 0xFFFFFFFF = Vector.replicate 16 0xFFFFFF

/-! ### The round function -/

/-- R133, R134: the four groups of the mixed value, group 0 the most significant; the row is the top 2 bits of a group and the
column the bottom 4, `16 * row + col` is the group itself, and the nibble is the word of `ROM_Si` there. -/
def Obligations.LookupAddressIsTheGroup : Prop :=
  ∀ (ts : TableSet) (rk : Option KeySchedule) (m : BitVec 24),
    (group m 0 = m.extractLsb' 18 6 ∧ group m 1 = m.extractLsb' 12 6 ∧ group m 2 = m.extractLsb' 6 6 ∧
      group m 3 = m.extractLsb' 0 6) ∧
    ∀ i : Fin 4,
      (groupRow (group m i)).val = ((group m i).extractLsb' 4 2).toNat ∧
      (groupCol (group m i)).val = ((group m i).extractLsb' 0 4).toNat ∧
      lookup ts m i = sboxEntry ts i (groupRow (group m i)) (groupCol (group m i)) ∧
      16 * (groupRow (group m i)).val + (groupCol (group m i)).val = (group m i).toNat ∧
      memRead ts rk (.romS i) (group m i).toNat = some (lookup ts m i).toNat

/-- R135: the four nibbles are concatenated most-significant group first: nibble i is the look-up of group i, group 0 in bits
15..12. -/
def Obligations.SubstitutionPlacesTheNibbles : Prop :=
  ∀ (ts : TableSet) (m : BitVec 24) (i : Fin 4), (sub ts m).extractLsb' (12 - 4 * i.val) 4 = lookup ts m i

/-- R132, R138: the round function is expansion, exclusive or with the key, substitution, and P of the original input under
`F_REF` or of the substitution output under `F_SUB`. -/
def Obligations.RoundFunctionIsItsFourSteps : Prop :=
  ∀ (ts : TableSet) (fmode : FMode) (r : Half) (k : RoundKey),
    F ts fmode r k = if fmode = .fRef then permute r ts.p else permute (sub ts (permute r ts.e ^^^ k)) ts.p

/-- R139, R140: under `F_REF` the key does not matter, and the ends are fixed for every Table Set; under `F_SUB` zero and zero
give P of the four corner entries, and the half-block matters only through its expansion. -/
def Obligations.RoundFunctionCorners : Prop :=
  ∀ ts : TableSet,
    (∀ r k k', F ts .fRef r k = F ts .fRef r k') ∧ (∀ k, F ts .fRef 0 k = 0) ∧ (∀ k, F ts .fRef 0xFFFF k = 0xFFFF) ∧
    F ts .fSub 0 0 =
      permute (sboxEntry ts 0 0 0 ++ sboxEntry ts 1 0 0 ++ sboxEntry ts 2 0 0 ++ sboxEntry ts 3 0 0) ts.p ∧
    ∀ r r' k, expand ts r = expand ts r' → F ts .fSub r k = F ts .fSub r' k

/-! ### The transform -/

/-- R151, R152: the Encrypt and the Decrypt round, both right-hand sides from the values before the round. -/
def Obligations.RoundsAreAsWritten : Prop :=
  ∀ (ts : TableSet) (fmode : FMode) (k : RoundKey) (l r : Half),
    encRound ts fmode k ⟨l, r⟩ = ⟨r, l ^^^ F ts fmode r k⟩ ∧ decRound ts fmode k ⟨l, r⟩ = ⟨r ^^^ F ts fmode l k, l⟩

/-- R153: DecRound and EncRound with the same key and mode undo each other, for every Table Set. -/
def Obligations.RoundsUndoEachOther : Prop :=
  ∀ (ts : TableSet) (fmode : FMode) (k : RoundKey) (h : Halves),
    decRound ts fmode k (encRound ts fmode k h) = h ∧ encRound ts fmode k (decRound ts fmode k h) = h

/-- R154, R155: the round-key indices. R59: exactly one of them leaves 0..15, and `RK[0]` is never used by a Decrypt under
`K16`. R157: an index in range reads its register, index 16 reads the draw whatever the schedule. -/
def Obligations.RoundKeyIndicesAndReads : Prop :=
  (∀ n, n < 16 →
    (∀ kidx, keyIndex kidx .encrypt n = n) ∧ keyIndex .k15 .decrypt n = 15 - n ∧ keyIndex .k16 .decrypt n = 16 - n ∧
    (∀ kidx dir, 15 < keyIndex kidx dir n ↔ (kidx = .k16 ∧ dir = .decrypt ∧ n = 0)) ∧
    keyIndex .k16 .decrypt n ≠ 0) ∧
  ∀ (rk : KeySchedule) (koor : RoundKey), (∀ j : Fin 16, keyAt rk koor j = rk[j]) ∧ keyAt rk koor 16 = koor

/-- R158, R159: the transform is the loop of the rule, sixteen rounds in order, with no swap of the halves at the end. -/
def Obligations.TransformIsTheLoop : Prop :=
  ∀ (ts : TableSet) (cfg : Cfg) (rk : KeySchedule) (dir : Direction) (b : Block) (koor : RoundKey),
    XF ts cfg rk dir b koor = transformLoop ts cfg rk dir b koor

/-- R158: the draw is used only when the Direction is Decrypt and KIDX is `K16`. -/
def Obligations.TransformReadsTheDrawOnlyUnderK16 : Prop :=
  ∀ (ts : TableSet) (cfg : Cfg) (rk : KeySchedule) (dir : Direction) (b : Block) (koor koor' : RoundKey),
    ¬ (dir = .decrypt ∧ cfg.kidx = .k16) → XF ts cfg rk dir b koor = XF ts cfg rk dir b koor'

/-- R163, R164: under `F_REF` the transform depends neither on the schedule nor on KIDX nor on the draw. -/
def Obligations.FRefTransformIgnoresTheKeys : Prop :=
  ∀ (ts : TableSet) (kidx kidx' : KIdx) (rk rk' : KeySchedule) (dir : Direction) (b : Block) (koor koor' : RoundKey),
    XF ts ⟨.fRef, kidx⟩ rk dir b koor = XF ts ⟨.fRef, kidx'⟩ rk' dir b koor'

/-- R163: under `F_REF` the transform is linear over exclusive or. -/
def Obligations.FRefTransformIsLinear : Prop :=
  ∀ (ts : TableSet) (kidx : KIdx) (rk : KeySchedule) (dir : Direction) (a b : Block) (koor : RoundKey),
    XF ts ⟨.fRef, kidx⟩ rk dir (a ^^^ b) koor =
        XF ts ⟨.fRef, kidx⟩ rk dir a koor ^^^ XF ts ⟨.fRef, kidx⟩ rk dir b koor ∧
      XF ts ⟨.fRef, kidx⟩ rk dir 0 koor = 0

/-- R163, vectors A9 to A12: under `F_REF`, for every Table Set, the Blocks made of all-zero and all-ones halves. -/
def Obligations.FRefTransformOfConstantHalves : Prop :=
  ∀ (ts : TableSet) (kidx : KIdx) (rk : KeySchedule) (koor : RoundKey),
    XF ts ⟨.fRef, kidx⟩ rk .encrypt 0x00000000 koor = 0x00000000 ∧
    XF ts ⟨.fRef, kidx⟩ rk .encrypt 0xFFFFFFFF koor = 0xFFFF0000 ∧
    XF ts ⟨.fRef, kidx⟩ rk .encrypt 0xFFFF0000 koor = 0x0000FFFF ∧
    XF ts ⟨.fRef, kidx⟩ rk .encrypt 0x0000FFFF koor = 0xFFFFFFFF ∧
    XF ts ⟨.fRef, kidx⟩ rk .decrypt 0xFFFF0000 koor = 0xFFFFFFFF ∧
    XF ts ⟨.fRef, kidx⟩ rk .decrypt 0xFFFFFFFF koor = 0x0000FFFF ∧
    XF ts ⟨.fRef, kidx⟩ rk .decrypt 0x0000FFFF koor = 0xFFFF0000

/-- R165: the round-trip law, for every Table Set, schedule, Block and draw, in every mode pair but (`F_SUB`, `K16`), in both
orders. -/
def Obligations.TransformRoundTrip : Prop :=
  ∀ (ts : TableSet) (cfg : Cfg) (rk : KeySchedule) (b : Block) (koor koor' : RoundKey), cfg.invertible = true →
    XF ts cfg rk .decrypt (XF ts cfg rk .encrypt b koor) koor' = b ∧
    XF ts cfg rk .encrypt (XF ts cfg rk .decrypt b koor) koor' = b

/-- R165, R166: under (`F_SUB`, `K16`) the law fails: for some Table Set, seed and Block, no draw brings the Block back. -/
def Obligations.TransformRoundTripFailsUnderFSubK16 : Prop :=
  ∃ (ts : TableSet) (seed : Seed) (b : Block), ∀ koor koor' : RoundKey,
    XF ts ⟨.fSub, .k16⟩ (KS ts seed) .decrypt (XF ts ⟨.fSub, .k16⟩ (KS ts seed) .encrypt b koor) koor' ≠ b

/-- R168: where P is the identity, under `F_REF`, `ENC(L ++ R) = R ++ (L xor R)` and `DEC(L ++ R) = (L xor R) ++ L`. -/
def Obligations.IdentityPClosedForm : Prop :=
  ∀ (ts : TableSet) (kidx : KIdx) (rk : KeySchedule) (l r : Half) (koor : RoundKey), ts.p = Vector.ofFn id →
    XF ts ⟨.fRef, kidx⟩ rk .encrypt (l ++ r) koor = r ++ (l ^^^ r) ∧
    XF ts ⟨.fRef, kidx⟩ rk .decrypt (l ++ r) koor = (l ^^^ r) ++ l
end

