-- ==== Sys2Proof/Laws/Cipher.lean ====
section
/-!
SUPPORT. One spec lemma for each function of the cipher: what its result is, bit by bit or field by field, so that a proof
cites the lemma and never unfolds the function.
-/

namespace Sys2Proof.Machine

/-- Output bit i of `permute` is input bit `T[i]` (R95). -/
theorem permute_getElem {n m : Nat} (v : BitVec n) (t : Vector (Fin n) m) (i : Nat) (h : i < m) :
    (permute v t)[i] = v[(t[i]).val] := by
  simp [permute, Vector.get_eq_getElem]

theorem permute_getLsbD {n m : Nat} (v : BitVec n) (t : Vector (Fin n) m) (i : Nat) (h : i < m) :
    (permute v t).getLsbD i = v.getLsbD (t[i]).val := by
  rw [BitVec.getLsbD_eq_getElem h, permute_getElem v t i h, BitVec.getLsbD_eq_getElem]

theorem hi16_getLsbD (v : BitVec 32) (i : Nat) : (hi16 v).getLsbD i = (decide (i < 16) && v.getLsbD (16 + i)) := by
  simp [hi16]

theorem lo16_getLsbD (v : BitVec 32) (i : Nat) : (lo16 v).getLsbD i = (decide (i < 16) && v.getLsbD i) := by
  simp [lo16]

theorem hi16_append (a b : Half) : hi16 (a ++ b) = a := by
  ext i h
  have key : (a ++ b).getLsbD (16 + i) = a.getLsbD i := by rw [BitVec.getLsbD_append]; simp
  rw [← BitVec.getLsbD_eq_getElem, ← BitVec.getLsbD_eq_getElem, hi16_getLsbD]
  simpa [h] using key

theorem lo16_append (a b : Half) : lo16 (a ++ b) = b := by
  ext i h
  have key : (a ++ b).getLsbD i = b.getLsbD i := by rw [BitVec.getLsbD_append]; simp [h]
  rw [← BitVec.getLsbD_eq_getElem, ← BitVec.getLsbD_eq_getElem, lo16_getLsbD]
  simpa [h] using key

theorem append_hi16_lo16 (b : Block) : hi16 b ++ lo16 b = b := by
  ext i h
  rw [BitVec.getElem_append]
  split
  · simp [lo16, *]
  · simp [hi16, show 16 + (i - 16) = i by omega, *]

theorem splitBlock_joinHalves (h : Halves) : splitBlock (joinHalves h) = h := by
  simp [splitBlock, joinHalves, hi16_append, lo16_append]

theorem joinHalves_splitBlock (b : Block) : joinHalves (splitBlock b) = b := by
  simp [splitBlock, joinHalves, append_hi16_lo16]

/-- Key n of a schedule is PC2 of round n's value (R117). -/
theorem KS_getElem (ts : TableSet) (seed : Seed) (n : Nat) (h : n < 16) :
    (KS ts seed)[n] = permute (roundValue (loadKeyRegs ts seed) n) ts.pc2 := by
  simp [KS]

/-- A round key depends on its round only through the shift amount (R119). -/
theorem roundValue_congr (k : KeyRegs) {m n : Nat} (h : shift m = shift n) : roundValue k m = roundValue k n := by
  simp [roundValue, h]

theorem F_fRef (ts : TableSet) (r : Half) (k : RoundKey) : F ts .fRef r k = permute r ts.p := rfl

theorem F_fSub (ts : TableSet) (r : Half) (k : RoundKey) :
    F ts .fSub r k = permute (sub ts (mix (expand ts r) k)) ts.p := rfl

theorem keyIndex_encrypt (kidx : KIdx) (n : Nat) : keyIndex kidx .encrypt n = n := rfl
theorem keyIndex_decrypt_k15 (n : Nat) : keyIndex .k15 .decrypt n = 15 - n := rfl
theorem keyIndex_decrypt_k16 (n : Nat) : keyIndex .k16 .decrypt n = 16 - n := rfl

/-- An index in range reads its register (R36). -/
theorem keyAt_of_lt (rk : KeySchedule) (koor : RoundKey) (j : Nat) (h : j < 16) : keyAt rk koor j = rk[j] := by
  simp [keyAt, h]

/-- An index out of range reads the draw (R157). -/
theorem keyAt_of_le (rk : KeySchedule) (koor : RoundKey) (j : Nat) (h : 16 ≤ j) : keyAt rk koor j = koor := by
  simp [keyAt, Nat.not_lt.mpr h]

@[simp] theorem xfRounds_zero (ts : TableSet) (cfg : Cfg) (rk : KeySchedule) (dir : Direction) (koor : RoundKey)
    (h : Halves) : xfRounds ts cfg rk dir koor 0 h = h := rfl

theorem xfRounds_succ (ts : TableSet) (cfg : Cfg) (rk : KeySchedule) (dir : Direction) (koor : RoundKey) (n : Nat)
    (h : Halves) :
    xfRounds ts cfg rk dir koor (n + 1) h =
      feistelRound ts cfg.fmode dir (keyAt rk koor (keyIndex cfg.kidx dir n)) (xfRounds ts cfg rk dir koor n h) := rfl

end Sys2Proof.Machine
end

