-- ==== Sys2Proof/Laws/State.lean ====
section
/-!
SUPPORT. What each update of the state does to each field: one lemma per field per update, so that no later proof unfolds a
record update.
-/

namespace Sys2Proof.Machine

@[simp] theorem State.respond_cfg (s : State) (code : RspCode) (data : Data) : (s.respond code data).cfg = s.cfg := rfl
@[simp] theorem State.respond_status (s : State) (code : RspCode) (data : Data) : (s.respond code data).status = s.status := rfl
@[simp] theorem State.respond_rk (s : State) (code : RspCode) (data : Data) : (s.respond code data).rk = s.rk := rfl
@[simp] theorem State.respond_owed (s : State) (code : RspCode) (data : Data) : (s.respond code data).owed = s.owed ++ [⟨code, data⟩] := rfl
@[simp] theorem State.respond_held (s : State) (code : RspCode) (data : Data) : (s.respond code data).held = s.held := rfl
@[simp] theorem State.respond_edges (s : State) (code : RspCode) (data : Data) : (s.respond code data).edges = s.edges := rfl
@[simp] theorem State.respond_delivered (s : State) (code : RspCode) (data : Data) : (s.respond code data).delivered = s.delivered := rfl
@[simp] theorem State.respond_draws (s : State) (code : RspCode) (data : Data) : (s.respond code data).draws = s.draws := rfl

@[simp] theorem State.raise_cfg (s : State) (x : Cause) : (s.raise x).cfg = s.cfg := rfl
@[simp] theorem State.raise_status (s : State) (x : Cause) : (s.raise x).status = s.status.refused x := rfl
@[simp] theorem State.raise_rk (s : State) (x : Cause) : (s.raise x).rk = s.rk := rfl
@[simp] theorem State.raise_owed (s : State) (x : Cause) : (s.raise x).owed = s.owed ++ [⟨x.code, 0⟩] := rfl
@[simp] theorem State.raise_held (s : State) (x : Cause) : (s.raise x).held = s.held := rfl
@[simp] theorem State.raise_edges (s : State) (x : Cause) : (s.raise x).edges = s.edges := rfl
@[simp] theorem State.raise_delivered (s : State) (x : Cause) : (s.raise x).delivered = s.delivered := rfl
@[simp] theorem State.raise_draws (s : State) (x : Cause) : (s.raise x).draws = s.draws := rfl

@[simp] theorem State.writeCfg_cfg (s : State) (fmode : FMode) (kidx : KIdx) : (s.writeCfg fmode kidx).cfg = ⟨fmode, kidx⟩ := rfl
@[simp] theorem State.writeCfg_status (s : State) (fmode : FMode) (kidx : KIdx) : (s.writeCfg fmode kidx).status = s.status := rfl
@[simp] theorem State.writeCfg_rk (s : State) (fmode : FMode) (kidx : KIdx) : (s.writeCfg fmode kidx).rk = s.rk := rfl
@[simp] theorem State.writeCfg_owed (s : State) (fmode : FMode) (kidx : KIdx) : (s.writeCfg fmode kidx).owed = s.owed := rfl
@[simp] theorem State.writeCfg_held (s : State) (fmode : FMode) (kidx : KIdx) : (s.writeCfg fmode kidx).held = s.held := rfl
@[simp] theorem State.writeCfg_edges (s : State) (fmode : FMode) (kidx : KIdx) : (s.writeCfg fmode kidx).edges = s.edges := rfl
@[simp] theorem State.writeCfg_delivered (s : State) (fmode : FMode) (kidx : KIdx) : (s.writeCfg fmode kidx).delivered = s.delivered := rfl
@[simp] theorem State.writeCfg_draws (s : State) (fmode : FMode) (kidx : KIdx) : (s.writeCfg fmode kidx).draws = s.draws := rfl

@[simp] theorem State.writeSchedule_cfg (s : State) (ks : KeySchedule) : (s.writeSchedule ks).cfg = s.cfg := rfl
@[simp] theorem State.writeSchedule_status (s : State) (ks : KeySchedule) : (s.writeSchedule ks).status = s.status := rfl
@[simp] theorem State.writeSchedule_rk (s : State) (ks : KeySchedule) : (s.writeSchedule ks).rk = some ks := rfl
@[simp] theorem State.writeSchedule_owed (s : State) (ks : KeySchedule) : (s.writeSchedule ks).owed = s.owed := rfl
@[simp] theorem State.writeSchedule_held (s : State) (ks : KeySchedule) : (s.writeSchedule ks).held = s.held := rfl
@[simp] theorem State.writeSchedule_edges (s : State) (ks : KeySchedule) : (s.writeSchedule ks).edges = s.edges := rfl
@[simp] theorem State.writeSchedule_delivered (s : State) (ks : KeySchedule) : (s.writeSchedule ks).delivered = s.delivered := rfl
@[simp] theorem State.writeSchedule_draws (s : State) (ks : KeySchedule) : (s.writeSchedule ks).draws = s.draws := rfl

@[simp] theorem State.nextEdge_cfg (s : State) (e : Edge) : (s.nextEdge e).cfg = s.cfg := rfl
@[simp] theorem State.nextEdge_status (s : State) (e : Edge) : (s.nextEdge e).status = s.status := rfl
@[simp] theorem State.nextEdge_rk (s : State) (e : Edge) : (s.nextEdge e).rk = s.rk := rfl
@[simp] theorem State.nextEdge_owed (s : State) (e : Edge) : (s.nextEdge e).owed = s.owed := rfl
@[simp] theorem State.nextEdge_held (s : State) (e : Edge) : (s.nextEdge e).held = s.held := rfl
@[simp] theorem State.nextEdge_edges (s : State) (e : Edge) : (s.nextEdge e).edges = e :: s.edges := rfl
@[simp] theorem State.nextEdge_delivered (s : State) (e : Edge) : (s.nextEdge e).delivered = s.delivered := rfl
@[simp] theorem State.nextEdge_draws (s : State) (e : Edge) : (s.nextEdge e).draws = s.draws := rfl

@[simp] theorem State.takeReset_cfg (s : State) : (s.takeReset).cfg = ⟨.fRef, .k15⟩ := rfl
@[simp] theorem State.takeReset_status (s : State) : (s.takeReset).status = ⟨false, false, false⟩ := rfl
@[simp] theorem State.takeReset_rk (s : State) : (s.takeReset).rk = none := rfl
@[simp] theorem State.takeReset_owed (s : State) : (s.takeReset).owed = [] := rfl
@[simp] theorem State.takeReset_held (s : State) : (s.takeReset).held = false := rfl
@[simp] theorem State.takeReset_edges (s : State) : (s.takeReset).edges = s.edges := rfl
@[simp] theorem State.takeReset_delivered (s : State) : (s.takeReset).delivered = s.delivered := rfl
@[simp] theorem State.takeReset_draws (s : State) : (s.takeReset).draws = s.draws := rfl

@[simp] theorem State.readOutOfRange_cfg (s : State) : s.readOutOfRange.cfg = s.cfg := by
  unfold State.readOutOfRange; split <;> rfl
@[simp] theorem State.readOutOfRange_rk (s : State) : s.readOutOfRange.rk = s.rk := by
  unfold State.readOutOfRange; split <;> rfl
@[simp] theorem State.readOutOfRange_owed (s : State) : s.readOutOfRange.owed = s.owed := by
  unfold State.readOutOfRange; split <;> rfl
@[simp] theorem State.readOutOfRange_held (s : State) : s.readOutOfRange.held = s.held := by
  unfold State.readOutOfRange; split <;> rfl
@[simp] theorem State.readOutOfRange_edges (s : State) : s.readOutOfRange.edges = s.edges := by
  unfold State.readOutOfRange; split <;> rfl
@[simp] theorem State.readOutOfRange_delivered (s : State) : s.readOutOfRange.delivered = s.delivered := by
  unfold State.readOutOfRange; split <;> rfl

theorem State.readOutOfRange_of_k15 (s : State) (h : s.cfg.kidx = .k15) : s.readOutOfRange = s := by
  simp [State.readOutOfRange, h]

theorem State.readOutOfRange_of_k16 (s : State) (h : s.cfg.kidx = .k16) :
    s.readOutOfRange = { s with status := s.status.outOfRange, draws := s.draws + 1 } := by
  simp [State.readOutOfRange, h]

@[simp] theorem State.responsePort_cfg (s : State) (e : Edge) : (s.responsePort e).cfg = s.cfg := by
  unfold State.responsePort; split <;> (try split) <;> (try split) <;> rfl
@[simp] theorem State.responsePort_status (s : State) (e : Edge) : (s.responsePort e).status = s.status := by
  unfold State.responsePort; split <;> (try split) <;> (try split) <;> rfl
@[simp] theorem State.responsePort_rk (s : State) (e : Edge) : (s.responsePort e).rk = s.rk := by
  unfold State.responsePort; split <;> (try split) <;> (try split) <;> rfl
@[simp] theorem State.responsePort_edges (s : State) (e : Edge) : (s.responsePort e).edges = s.edges := by
  unfold State.responsePort; split <;> (try split) <;> (try split) <;> rfl
@[simp] theorem State.responsePort_draws (s : State) (e : Edge) : (s.responsePort e).draws = s.draws := by
  unfold State.responsePort; split <;> (try split) <;> (try split) <;> rfl

@[simp] theorem Status.refused_oorf (f : Status) (x : Cause) : (f.refused x).oorf = f.oorf := by cases x <;> rfl
@[simp] theorem Status.refused_illegalCmd (f : Status) : f.refused .illegalCmd = { f with illf := true } := rfl
@[simp] theorem Status.refused_noKey (f : Status) : f.refused .noKey = { f with nokeyf := true } := rfl
@[simp] theorem Status.outOfRange_eq (f : Status) : f.outOfRange = { f with oorf := true } := rfl
@[simp] theorem Cause.code_illegalCmd : Cause.code .illegalCmd = .illegalCmd := rfl
@[simp] theorem Cause.code_noKey : Cause.code .noKey = .noKey := rfl

end Sys2Proof.Machine
end

