-- ==== Sys2Proof/Laws/Machine.lean ====
section
/-!
SUPPORT. One lemma for each shared operation of the machine that says once everything it can do: the effects of ENC and DEC,
the ports, one clock edge, one step.
-/

namespace Sys2Proof.Machine

/-- A command word is its opcode above its data (R72). -/
theorem opField_append_dataField (w : CmdWord) : opField w ++ dataField w = w := by
  ext i h
  rw [BitVec.getElem_append]
  split
  · simp [dataField, *]
  · simp [opField, show 32 + (i - 32) = i by omega, *]

theorem opField_append (op : BitVec 4) (data : Data) : opField (op ++ data) = op := by
  ext i h
  have key : (op ++ data).getLsbD (32 + i) = op.getLsbD i := by rw [BitVec.getLsbD_append]; simp
  have field : (opField (op ++ data)).getLsbD i = (op ++ data).getLsbD (32 + i) := by simp [opField, h]
  rw [← BitVec.getLsbD_eq_getElem, ← BitVec.getLsbD_eq_getElem, field, key]

theorem dataField_append (op : BitVec 4) (data : Data) : dataField (op ++ data) = data := by
  ext i h
  have key : (op ++ data).getLsbD i = data.getLsbD i := by rw [BitVec.getLsbD_append]; simp [h]
  have field : (dataField (op ++ data)).getLsbD i = (op ++ data).getLsbD i := by simp [dataField, h]
  rw [← BitVec.getLsbD_eq_getElem, ← BitVec.getLsbD_eq_getElem, field, key]

/-- A word put together from its two fields decodes by them. -/
theorem decode_append (op : BitVec 4) (data : Data) : decode (op ++ data) = decodeFields op data := by
  unfold decode
  rw [opField_append, dataField_append]

theorem State.enc_of_none (ts : TableSet) (koor : RoundKey) (b : Block) (s : State) (h : s.rk = none) :
    s.enc ts koor b = s.raise .noKey := by simp [State.enc, h]

theorem State.enc_of_some (ts : TableSet) (koor : RoundKey) (b : Block) (s : State) (ks : KeySchedule)
    (h : s.rk = some ks) : s.enc ts koor b = s.respond .ok (XF ts s.cfg ks .encrypt b koor) := by
  simp [State.enc, h]

theorem State.dec_of_none (ts : TableSet) (koor : RoundKey) (b : Block) (s : State) (h : s.rk = none) :
    s.dec ts koor b = s.raise .noKey := by simp [State.dec, h]

theorem State.dec_of_some (ts : TableSet) (koor : RoundKey) (b : Block) (s : State) (ks : KeySchedule)
    (h : s.rk = some ks) :
    s.dec ts koor b = s.readOutOfRange.respond .ok (XF ts s.cfg ks .decrypt b koor) := by
  simp [State.dec, h]

/-- Everything the response port can do at an edge: nothing, hold the oldest response, or hand it over (R71). -/
theorem State.responsePort_cases (s : State) (e : Edge) :
    s.responsePort e = s ∨
    (∃ r rest, s.owed = r :: rest ∧ s.rspValid e = true ∧ e.rspReady = false ∧
      s.responsePort e = { s with held := true }) ∨
    (∃ r rest, s.owed = r :: rest ∧ s.rspValid e = true ∧ e.rspReady = true ∧
      s.responsePort e = { s with owed := rest, held := false, delivered := s.delivered ++ [r.word] }) := by
  unfold State.responsePort
  split
  · exact .inl rfl
  · rename_i r rest heq
    split
    · rename_i hv
      cases hr : e.rspReady
      · exact .inr (.inl ⟨r, rest, heq, hv, rfl, by simp⟩)
      · exact .inr (.inr ⟨r, rest, heq, hv, rfl, by simp⟩)
    · exact .inl rfl

/-- A response leaves `owed` only by reaching `delivered`: the port loses and reorders nothing (R65). -/
theorem State.responsePort_answers (s : State) (e : Edge) : (s.responsePort e).answers = s.answers := by
  obtain h | ⟨r, rest, ho, -, -, h⟩ | ⟨r, rest, ho, -, -, h⟩ := s.responsePort_cases e
  · rw [h]
  · simp [h, State.answers]
  · simp [h, State.answers, ho]

theorem issueWord_of_ok {w : CmdWord} {i : Instr} (h : decode w = .ok i) (s : State) : issueWord w s = exec i s := by
  simp [issueWord, h]

theorem issueWord_of_error {w : CmdWord} {x : Reject} (h : decode w = .error x) (s : State) :
    issueWord w s = .next (s.raise .illegalCmd) := by
  simp [issueWord, h]

/-- Everything one clock edge can do (R71, R220). -/
theorem clockEdge_cases (e : Edge) (s : State) :
    (e.rst = true ∧ clockEdge e s = .next s.takeReset) ∨
    (e.rst = false ∧ e.issues = true ∧ clockEdge e s = issueWord e.cmdWord (s.responsePort e)) ∨
    (e.rst = false ∧ e.issues = false ∧ clockEdge e s = .next (s.responsePort e)) := by
  unfold clockEdge
  cases hr : e.rst <;> cases hi : e.issues <;> simp

theorem step_of_nil {s : State} (h : s.edges = []) : step s = .next s := by simp [step, h]

theorem step_of_cons {s : State} {e : Edge} {rest : List Edge} (h : s.edges = e :: rest) :
    step s = clockEdge e { s with edges := rest } := by simp [step, h]

/-- The edge put in front of the others is the one the step takes. -/
theorem step_nextEdge (s : State) (e : Edge) : step (s.nextEdge e) = clockEdge e s := rfl

theorem State.rspWord_of_valid {s : State} {e : Edge} (h : s.rspValid e = true) :
    s.rspWord e = s.owed.head?.map Response.word := if_pos h

theorem State.rspWord_of_not_valid {s : State} {e : Edge} (h : s.rspValid e = false) : s.rspWord e = none := by
  simp [State.rspWord, h]

theorem issues_rst {e : Edge} (h : e.issues = true) : e.rst = false := by
  cases hr : e.rst <;> simp_all [Edge.issues]

end Sys2Proof.Machine
end

