-- ==== Sys2Proof/Laws/PerInstr.lean ====
section
/-!
SUPPORT. Statements made instruction by instruction. Family EncodesInRow: the word of a command selects the row of the opcode
map that bears the command's mnemonic (rule R74).
-/

namespace Sys2Proof.Laws.EncodesInRow

open Sys2Proof.Machine

/-- The encoded word selects the row of the command's own mnemonic. -/
def Statement (i : Instr) : Prop := ∃ r ∈ opcodeMap, r.mnemonic = i.mnemonic ∧ r.selects (encode i) = true

theorem nop : Statement .nop := ⟨⟨"NOP", 0xFFFFFFFFF, 0x000000000⟩, by decide, by decide, by decide⟩

theorem setmode (fmode : FMode) (kidx : KIdx) : Statement (.setmode fmode kidx) :=
  ⟨⟨"SETMODE", 0xFFFFFFFFC, 0x100000000⟩, by decide, rfl, by cases fmode <;> cases kidx <;> decide⟩

/-- The mask of an opcode keeps the opcode and clears the data. -/
theorem and_opcodeMask (op : BitVec 4) (data : Data) : (op ++ data) &&& (0xF#4 ++ 0#32) = op ++ 0#32 := by
  have hop : ∀ j (hj : j < 4), (0xF#4)[j] = true := by decide
  ext i h
  rw [BitVec.getElem_and, BitVec.getElem_append, BitVec.getElem_append, BitVec.getElem_append]
  split
  · simp
  · rw [hop _ (by omega), Bool.and_true]

/-- A word whose data field is all operand selects the row whose mask fixes the opcode alone. -/
theorem selects_of_opcode (m : String) (op : BitVec 4) (data : Data) :
    OpcodeRow.selects ⟨m, 0xF00000000, op ++ 0#32⟩ (op ++ data) = true :=
  beq_iff_eq.mpr (and_opcodeMask op data)

theorem keygen (seed : Seed) : Statement (.keygen seed) :=
  ⟨⟨"KEYGEN", 0xF00000000, 0x200000000⟩, by decide, rfl, selects_of_opcode "KEYGEN" 0x2 seed⟩

theorem enc (block : Block) : Statement (.enc block) :=
  ⟨⟨"ENC", 0xF00000000, 0x400000000⟩, by decide, rfl, selects_of_opcode "ENC" 0x4 block⟩

theorem dec (block : Block) : Statement (.dec block) :=
  ⟨⟨"DEC", 0xF00000000, 0x500000000⟩, by decide, rfl, selects_of_opcode "DEC" 0x5 block⟩

theorem rdstat : Statement .rdstat := ⟨⟨"RDSTAT", 0xFFFFFFFFF, 0x600000000⟩, by decide, by decide, by decide⟩

theorem rdkey (idx : Fin 16) : Statement (.rdkey idx) :=
  ⟨⟨"RDKEY", 0xFFFFFFFF0, 0x700000000⟩, by decide, rfl, by revert idx; decide⟩

end Sys2Proof.Laws.EncodesInRow
end

