-- ==== Sys2Proof/Tests/Slice0.lean ====
section
/-!
SUPPORT. Tests of the model's own reading, each on one step or one function call, and the witnesses of the obligations'
hypotheses. Every expected value is the spec's: the vectors of 95_test_vectors.md (named by their ids there), the programs of
96_test_programs.md and the worked examples of the rules.
-/

namespace Sys2Proof.Tests

open Sys2Proof.Machine

/-! ### Helpers -/

/-- The next state, if there is one. -/
def next? (o : Host.Outcome State Fault Refusal) : Option State :=
  match o with
  | .next t => some t
  | .fault _ => none
  | .refused _ => none

/-- What the spec's tables of commands list of one command: the responses owed after it and the status word after it. -/
def answered (w : CmdWord) (s : State) : Option (List Response × Data) :=
  (next? (issueWord w s)).map fun t => (t.owed, t.csr)

/-- A schedule whose key n is n + 1. -/
def numbered : KeySchedule := Vector.ofFn fun n => BitVec.ofNat 24 (n + 1)

/-- "Keyed": a state that holds a schedule. -/
def keyed : State := { State.reset with rk := some numbered }

/-- A keyed state under a mode pair. -/
def keyedIn (fmode : FMode) (kidx : KIdx) : State := { keyed with cfg := ⟨fmode, kidx⟩ }

/-- The schedule of the spec's seed on TFIX (95_test_vectors.md section 4.3). -/
def tfixSchedule : KeySchedule :=
  #v[0x9283B0, 0x07614B, 0xC29E4A, 0x281B0A, 0x3614F2, 0x29ECA0, 0x8190A7, 0x214765,
     0x8EC216, 0x592A3B, 0x547610, 0xEC2964, 0x9283B0, 0x07614B, 0xC29E4A, 0x281B0A]

/-- A core that holds that schedule, under a mode pair. -/
def tfixIn (fmode : FMode) (kidx : KIdx) : State := { State.reset with rk := some tfixSchedule, cfg := ⟨fmode, kidx⟩ }

/-- An edge at which nothing happens but what the response port is told to do. -/
def quiet (rspDue rspReady : Bool) : Edge := ⟨false, false, false, 0, rspDue, rspReady⟩

/-- A host offer of a word that the core is not ready for. -/
def refusedOffer (w : CmdWord) : Edge := ⟨false, true, false, w, false, false⟩

/-- An edge at which the core is ready, the oldest response is due and the host takes it; no word is offered. -/
def prompt : Edge := ⟨false, false, true, 0, true, true⟩

/-- A run of prompt edges in which the one owed response is taken at the first. -/
def draining : Nat → State
  | 0 => { State.reset with owed := [⟨.noKey, 0⟩] }
  | _ + 1 => { State.reset with delivered := [0x200000000] }

/-- An edge of reset at which a word is offered. -/
def resetEdge : Edge := ⟨true, true, true, 0x000000000, true, true⟩

/-- Reset at the first edge, and prompt edges after it. -/
def resetOnce : Nat → Edge
  | 0 => resetEdge
  | _ + 1 => prompt

/-! ### Decoding: words written out bit by bit from the encodings of 30_encoding.md (rules R72 to R74) -/

theorem test_decode_nop : decode 0b0000_00000000000000000000000000000000 = .ok .nop := by decide
theorem test_decode_setmode_kidx : decode 0b0001_00000000000000000000000000000010 = .ok (.setmode .fRef .k16) := by decide
theorem test_decode_setmode_fmode : decode 0b0001_00000000000000000000000000000001 = .ok (.setmode .fSub .k15) := by decide
theorem test_decode_keygen :
    decode 0b0010_00010010001101000101011001111000 = .ok (.keygen 0x12345678) := by decide
theorem test_decode_enc : decode 0b0100_11011110101011011011111011101111 = .ok (.enc 0xDEADBEEF) := by decide
theorem test_decode_dec : decode 0b0101_10000000000000000000000000000001 = .ok (.dec 0x80000001) := by decide
theorem test_decode_rdstat : decode 0b0110_00000000000000000000000000000000 = .ok .rdstat := by decide
theorem test_decode_rdkey : decode 0b0111_00000000000000000000000000001011 = .ok (.rdkey 11) := by decide

/-- The table's row words, as `decodeTableWord` numbers them. -/
theorem test_table_words :
    decodeTableWord 40 0x100000003 = some (.setmode .fSub .k16) ∧ decodeTableWord 40 0x70000000F = some (.rdkey 15) ∧
      decodeTableWord 40 0x300000000 = none ∧ decodeTableWord 40 0x1000000000 = none := by decide

/-! ### Well-formedness: for each check an ill-formed term, which the check refuses (rules R75, R93) -/

/-- Reserved opcodes (C19, C20). -/
theorem test_reserved_opcodes :
    legalWord 0x300000000 = false ∧ legalWord 0x800000000 = false ∧ legalWord 0xFFFFFFFFF = false ∧
      decode 0x300000000 = .error .reservedOpcode ∧ decode 0xFFFFFFFFF = .error .reservedOpcode := by decide

/-- Nonzero must-be-zero bits, the lowest and the highest of each (C2, C7, C8, C10, C16). -/
theorem test_must_be_zero :
    legalWord 0x000000001 = false ∧ legalWord 0x080000000 = false ∧ legalWord 0x100000004 = false ∧
      legalWord 0x180000001 = false ∧ legalWord 0x600000100 = false ∧ legalWord 0x700000010 = false ∧
      legalWord 0x780000000 = false ∧ decode 0x700000010 = .error .mustBeZero := by decide

/-- The last legal word before each of them. -/
theorem test_legal_at_the_boundary :
    legalWord 0x000000000 = true ∧ legalWord 0x100000003 = true ∧ legalWord 0x2FFFFFFFF = true ∧
      legalWord 0x4FFFFFFFF = true ∧ legalWord 0x5FFFFFFFF = true ∧ legalWord 0x600000000 = true ∧
      legalWord 0x70000000F = true := by decide

/-- M1, M10, M9: TFIX and TID are valid, and so are tables that are no bijection. -/
theorem test_valid_tables :
    mkTableSet (rawTables tfix) = .ok tfix ∧ mkTableSet (rawTables tid) = .ok tid ∧
      rawTablesValid { rawTables tfix with p := List.replicate 16 0, pc1 := List.replicate 32 31 } = true := by
  decide +kernel

/-- M2 to M6: an entry outside its domain. -/
theorem test_entries_outside_their_domain :
    mkTableSet { rawTables tfix with e := (rawTables tfix).e.set 5 16 } = .error .configError ∧
      mkTableSet { rawTables tfix with p := (rawTables tfix).p.set 0 16 } = .error .configError ∧
      mkTableSet { rawTables tfix with pc1 := (rawTables tfix).pc1.set 31 32 } = .error .configError ∧
      mkTableSet { rawTables tfix with pc2 := (rawTables tfix).pc2.set 0 32 } = .error .configError ∧
      mkTableSet { rawTables tfix with
        s := (rawTables tfix).s.modify 2 fun b => b.modify 1 fun r => r.set 3 16 } = .error .configError := by
  decide +kernel

/-- M7, M8: a wrong length; and an S-box without its last row. -/
theorem test_tables_of_the_wrong_length :
    mkTableSet { rawTables tfix with pc2 := (rawTables tfix).pc2 ++ [0] } = .error .configError ∧
      mkTableSet { rawTables tfix with e := (rawTables tfix).e.take 23 } = .error .configError ∧
      mkTableSet { rawTables tfix with s := (rawTables tfix).s.modify 0 (·.take 3) } = .error .configError := by
  decide +kernel

/-! ### `permute`, the key schedule and the round function -/

/-- P1, P2. -/
theorem test_permute_small :
    permute 0b0110#4 #v[(2 : Fin 4), 0, 3, 1] = 0b1001#4 ∧
      permute 0b0110#4 #v[(3 : Fin 4), 0, 1, 2, 3, 0] = 0b001100#6 := by decide

/-- P3, P6, P9, P13, P14. -/
theorem test_permute_fixtures :
    permute 0x12345678 tfix.pc1 = 0x3C21B0A9 ∧ permute 0xABCD tfix.e = 0xD57E5B ∧ permute 0xABCD tfix.p = 0x539F ∧
      permute 0x4F086C2A tfix.pc2 = 0x9283B0 ∧ permute 0xABCD tid.e = 0xCDABCD := by decide +kernel

/-- Entries of TFIX as the spec lists them. -/
theorem test_fixture_entries :
    tfix.e.toList.map Fin.val =
        [15, 0, 1, 2, 3, 4, 3, 4, 5, 6, 7, 8, 7, 8, 9, 10, 11, 12, 11, 12, 13, 14, 15, 0] ∧
      sboxEntry tfix 1 2 7 = 3 ∧ sboxEntry tfix 3 0 13 = 0xD := by decide +kernel

/-- Section 4.3: the whole schedule of `0x12345678` on TFIX. -/
theorem test_schedule_tfix : KS tfix 0x12345678 = tfixSchedule := by decide +kernel

/-- K3: only bit 31 of the seed, on TID. -/
theorem test_schedule_one_bit :
    (KS tid 0x80000000)[4] = 0 ∧ (KS tid 0x80000000)[5] = 0x800000 ∧ (KS tid 0x80000000)[6] = 0x200000 ∧
      (KS tid 0x80000000)[11] = 0 := by decide +kernel

/-- F1: every intermediate value. -/
theorem test_round_function_steps :
    expand tid 0xABCD = 0xCDABCD ∧ mix 0xCDABCD 0x123456 = 0xDF9F9B ∧ group 0xDF9F9B 0 = 0x37 ∧
      group 0xDF9F9B 3 = 0x1B ∧ sub tid 0xDF9F9B = 0x79EB := by decide +kernel

/-- S3: rows and columns of groups. -/
theorem test_rows_and_columns :
    groupRow 0x1B = 1 ∧ groupCol 0x1B = 11 ∧ groupRow 0x31 = 3 ∧ groupCol 0x31 = 1 ∧ groupRow 0x0F = 0 ∧
      groupCol 0x10 = 0 := by decide

/-- F10, F16, F18. -/
theorem test_round_function :
    F tfix .fRef 0xABCD 0x123456 = 0x539F ∧ F tfix .fSub 0xABCD 0x123456 = 0x4B39 ∧
      F tfix .fSub 0x0001 0x9283B0 = 0x8843 ∧ F tfix .fSub 0xBEEF 0x9283B0 = 0x2629 := by decide +kernel

/-- X25, both directions. -/
theorem test_transform_fsub :
    XF tfix ⟨.fSub, .k15⟩ tfixSchedule .encrypt 0x01234567 0 = 0x78215BCF ∧
      XF tfix ⟨.fSub, .k15⟩ tfixSchedule .decrypt 0x01234567 0 = 0xEC35D436 := by decide +kernel

/-- Section 4.5, the trace of `DEC 0xBB815994`: the halves after rounds 0 and 14. -/
theorem test_trace_of_dec :
    xfRounds tfix ⟨.fSub, .k15⟩ tfixSchedule .decrypt 0 1 (splitBlock 0xBB815994) = ⟨0xFE35, 0xBB81⟩ ∧
      xfRounds tfix ⟨.fSub, .k15⟩ tfixSchedule .decrypt 0 15 (splitBlock 0xBB815994) = ⟨0xBEEF, 0xF884⟩ := by
  decide +kernel

/-- The spaces of R50 at their edges. -/
theorem test_spaces :
    memRead tfix (some tfixSchedule) (.romS 1) 39 = some 3 ∧ memRead tfix (some tfixSchedule) (.romS 1) 64 = none ∧
      memRead tfix (some tfixSchedule) .romE 23 = some 0 ∧ memRead tfix (some tfixSchedule) .romE 24 = none ∧
      memRead tfix (some tfixSchedule) .rk 15 = some 0x281B0A ∧ memRead tfix (some tfixSchedule) .rk 16 = none ∧
      memRead tfix none .rk 0 = none := by decide +kernel

/-! ### The commands, one at a time -/

/-- C1, C2. -/
theorem test_nop :
    answered 0x000000000 State.reset = some ([⟨.ok, 0⟩], 0x00000000) ∧
      answered 0x000000001 State.reset = some ([⟨.illegalCmd, 0⟩], 0x00000400) := by decide

/-- C23: ILLF stays 1. -/
theorem test_nop_clears_nothing :
    answered 0x000000000 { State.reset with status := ⟨false, true, false⟩ } = some ([⟨.ok, 0⟩], 0x00000400) := by
  decide

/-- C4, C5, C6, C8. -/
theorem test_setmode :
    answered 0x100000001 State.reset = some ([⟨.ok, 0⟩], 0x00000001) ∧
      answered 0x100000002 State.reset = some ([⟨.ok, 0⟩], 0x00000002) ∧
      answered 0x100000003 State.reset = some ([⟨.ok, 0⟩], 0x00000003) ∧
      answered 0x180000001 State.reset = some ([⟨.illegalCmd, 0⟩], 0x00000400) := by decide

/-- C3: both fields are always written, a zero too. -/
theorem test_setmode_back :
    answered 0x100000000 (keyedIn .fSub .k16) = some ([⟨.ok, 0⟩], 0x00000100) := by decide

/-- C21, C11: KEYGEN on the core's own tables, which are not known. -/
theorem test_keygen :
    answered 0x212345678 State.reset = some ([⟨.ok, 0⟩], 0x00000100) := rfl

/-- Program 2, steps 12 and 13: a second KEYGEN replaces the schedule (K4). -/
theorem test_keygen_replaces :
    ((tfixIn .fRef .k15).keygen tfix 0xCAFEBABE).rk.map (fun ks => (ks[0], ks[15])) = some (0x75D5F7, 0x5D777C) := by
  decide +kernel

/-- Program 2 step 8, program 3 step 4: the two answers of ENC. -/
theorem test_enc :
    ((tfixIn .fRef .k15).enc tfix 0 0xDEADBEEF).owed = [⟨.ok, 0x9EEE0C96⟩] ∧
      ((tfixIn .fSub .k16).enc tfix 0 0xDEADBEEF).owed = [⟨.ok, 0xBB815994⟩] ∧
      ((tfixIn .fSub .k16).enc tfix 0 0xDEADBEEF).status.oorf = false := by decide +kernel

/-- C13. -/
theorem test_enc_without_key : answered 0x400000000 State.reset = some ([⟨.noKey, 0⟩], 0x00000800) := by decide

/-- T7 and T8: DEC under `F_SUB`, with OORF as said. -/
theorem test_dec :
    ((tfixIn .fSub .k15).dec tfix 0 0xBB815994).owed = [⟨.ok, 0xDEADBEEF⟩] ∧
      ((tfixIn .fSub .k15).dec tfix 0 0xBB815994).status.oorf = false ∧
      ((tfixIn .fSub .k16).dec tfix 0x000000 0xBB815994).owed = [⟨.ok, 0xC0B1AE40⟩] ∧
      ((tfixIn .fSub .k16).dec tfix 0xFFFFFF 0xBB815994).owed = [⟨.ok, 0x128E5654⟩] ∧
      ((tfixIn .fSub .k16).dec tfix 0 0xBB815994).csr = 0x00000303 := by decide +kernel

/-- C14: a refused DEC does not set OORF, under `K16` either. -/
theorem test_dec_without_key :
    answered 0x5DEADBEEF { State.reset with cfg := ⟨.fRef, .k16⟩ } = some ([⟨.noKey, 0⟩], 0x00000802) := by decide

/-- C9, C12: the status word. -/
theorem test_rdstat :
    answered 0x600000000 State.reset = some ([⟨.ok, 0⟩], 0) ∧
      answered 0x600000000 { keyedIn .fSub .k16 with status := ⟨true, true, true⟩ } =
        some ([⟨.ok, 0x00000F03⟩], 0x00000F03) := by decide

/-- C10. -/
theorem test_rdstat_illegal : answered 0x600000100 State.reset = some ([⟨.illegalCmd, 0⟩], 0x00000400) := by decide

/-- C18; and the round key is in the low 24 bits. -/
theorem test_rdkey :
    answered 0x70000000F (tfixIn .fRef .k15) = some ([⟨.ok, 0x00281B0A⟩], 0x00000100) ∧
      answered 0x700000000 (tfixIn .fRef .k15) = some ([⟨.ok, 0x009283B0⟩], 0x00000100) := by decide

/-- C15, C16, C17: without a key NO_KEY, but an illegal word first (R201). -/
theorem test_rdkey_refused :
    answered 0x700000000 State.reset = some ([⟨.noKey, 0⟩], 0x00000800) ∧
      answered 0x700000010 State.reset = some ([⟨.illegalCmd, 0⟩], 0x00000400) ∧
      answered 0x700000010 keyed = some ([⟨.illegalCmd, 0⟩], 0x00000500) := by decide

/-- Response words of program 1, steps 2, 4 and 8. -/
theorem test_response_words :
    Response.word ⟨.noKey, 0⟩ = 0x200000000 ∧ Response.word ⟨.illegalCmd, 0⟩ = 0x100000000 ∧
      Response.word ⟨.ok, 0x00000C00⟩ = 0x000000C00 := by decide

/-! ### Steps -/

/-- The first instruction after reset is the one placed. -/
theorem test_first_step :
    next? (step (State.reset.withFetchWord 36 0x100000003)) =
      some { State.reset with cfg := ⟨.fSub, .k16⟩, owed := [⟨.ok, 0⟩] } := by decide

/-- With nothing placed, reset idles. -/
theorem test_idle_step : next? (step State.reset) = some State.reset := by decide

/-- A response is handed over only when the host is ready, and only when it is due (R71). -/
theorem test_delivery :
    (next? (step { State.reset with owed := [⟨.noKey, 0⟩], edges := [quiet true true] })).map State.delivered =
        some [0x200000000] ∧
      (next? (step { State.reset with owed := [⟨.noKey, 0⟩], edges := [quiet false true] })).map State.delivered =
        some [] ∧
      (next? (step { State.reset with owed := [⟨.noKey, 0⟩], edges := [quiet true false] })).map State.held =
        some true := by decide

/-- `rsp_word` is the owed word while `rsp_valid` is high and nothing to be read while it is low (R71). -/
theorem test_rsp_word :
    State.rspWord { State.reset with owed := [⟨.illegalCmd, 0⟩] } (quiet true false) = some 0x100000000 ∧
      State.rspWord { State.reset with owed := [⟨.illegalCmd, 0⟩] } (quiet false true) = none := by decide

/-- A word offered at an edge of reset is not issued, and the owed response is gone (R222). -/
theorem test_reset_edge :
    next? (step { keyedIn .fSub .k16 with owed := [⟨.ok, 7⟩], held := true, edges := [resetEdge] }) =
      some State.reset := by decide

/-- A word the core is not ready for is not issued (R71). -/
theorem test_word_not_accepted :
    next? (step { State.reset with edges := [refusedOffer 0x100000003] }) = some State.reset := by decide

/-! ### Witnesses: states and operands that meet the hypotheses of the obligations, all together -/

/-- EncodeInvertsDecode, DecoderFollowsTheOpcodeMap. -/
theorem witness_decoded_word : decode 0x100000003 = .ok (.setmode .fSub .k16) ∧ decode 0x70000000F = .ok (.rdkey 15) := by
  decide

/-- DecoderFollowsTheOpcodeMap, its last clause. -/
theorem witness_selected_row :
    ∃ r ∈ opcodeMap, ∃ r' ∈ opcodeMap, r.selects 0x70000000F = true ∧ r'.selects 0x70000000F = true :=
  ⟨⟨"RDKEY", 0xFFFFFFFF0, 0x700000000⟩, by decide, ⟨"RDKEY", 0xFFFFFFFF0, 0x700000000⟩, by decide, by decide, by decide⟩

/-- StepRunsTheDecodedCommand. -/
theorem witness_issuing_edge :
    keyed.nextEdge (Edge.offering 0x70000000F) = { keyed with edges := [Edge.offering 0x70000000F] } ∧
      (Edge.offering 0x70000000F).issues = true ∧ decode (Edge.offering 0x70000000F).cmdWord = .ok (.rdkey 15) := by decide

/-- OfferedTableWordRunsNext. -/
theorem witness_offered_table_word : decodeTableWord 36 0x70000000F = some (.rdkey 15) := by decide

/-- StepRefusesAnIllegalWordFirst, IllegalWordsAreTheListedOnesAndRefused. -/
theorem witness_issued_illegal_word :
    (keyed.nextEdge (Edge.offering 0x700000010)).edges = [Edge.offering 0x700000010] ∧
      (Edge.offering 0x700000010).issues = true ∧ legalWord (Edge.offering 0x700000010).cmdWord = false := by decide

/-- IdleStepKeepsTheCore, its second clause. -/
theorem witness_idle_edge :
    ({ keyed with edges := [quiet true true] } : State).edges = [quiet true true] ∧ (quiet true true).rst = false ∧
      (quiet true true).issues = false ∧ (refusedOffer 0x000000000).rst = false ∧
      (refusedOffer 0x000000000).issues = false := by decide

/-- IdleStepKeepsTheCore, its first clause. -/
theorem witness_no_edge : State.reset.edges = [] := rfl

/-- ResetClearsTheCoreAndNothingElseDoes, its first clause. -/
theorem witness_reset_edge :
    ({ keyed with edges := [resetEdge] } : State).edges = [resetEdge] ∧ resetEdge.rst = true := by decide

/-- ResetClearsTheCoreAndNothingElseDoes, its second clause, for KEYV. -/
theorem witness_edge_without_reset :
    ∃ t, step (keyed.nextEdge (Edge.offering 0x500000000)) = .next t ∧ (Edge.offering 0x500000000).rst = false ∧
      keyed.keyv = true := ⟨_, rfl, rfl, rfl⟩

/-- ResetClearsTheCoreAndNothingElseDoes, its second clause, for the sticky flags. -/
theorem witness_flags_before_an_edge :
    ∃ t, step { keyed with status := ⟨true, true, true⟩, edges := [quiet true true] } = .next t ∧
      (quiet true true).rst = false := ⟨_, rfl, rfl⟩

/-- UntakenResponseIsHeld, its clauses where a response is taken, where none is valid and where `rst` is high. -/
theorem witness_delivery :
    (∃ t, step { State.reset with owed := [⟨.ok, 5⟩], edges := [quiet true true] } = .next t ∧
      State.rspValid { State.reset with owed := [⟨.ok, 5⟩], edges := [quiet true true] } (quiet true true) = true ∧
      (quiet true true).rst = false ∧ (quiet true true).rspReady = true) ∧
    (∃ t, step { State.reset with owed := [⟨.ok, 5⟩], edges := [quiet false true] } = .next t ∧
      State.rspValid { State.reset with owed := [⟨.ok, 5⟩], edges := [quiet false true] } (quiet false true) = false) ∧
    ∃ t, step { State.reset with owed := [⟨.ok, 5⟩], held := true, edges := [resetEdge] } = .next t ∧
      resetEdge.rst = true := ⟨⟨_, rfl, rfl, rfl, rfl⟩, ⟨_, rfl, rfl⟩, ⟨_, rfl, rfl⟩⟩

/-- UntakenResponseIsHeld, its first clause. -/
theorem witness_untaken_response :
    ∃ t, step { State.reset with owed := [⟨.ok, 5⟩], edges := [quiet true false] } = .next t ∧
      State.rspValid { State.reset with owed := [⟨.ok, 5⟩], edges := [quiet true false] } (quiet true false) = true ∧
      (quiet true false).rst = false ∧ (quiet true false).rspReady = false := ⟨_, rfl, rfl, rfl, rfl⟩

/-- WaitingWordIsTheNextIssued. -/
theorem witness_waiting_word :
    hostKeepsWord [refusedOffer 0x600000000, refusedOffer 0x600000000, Edge.offering 0x600000000] = true ∧
      (refusedOffer 0x600000000).waiting = true ∧
      (∀ x ∈ [refusedOffer 0x600000000, Edge.offering 0x600000000], x.rst = false) ∧
      issuedWords [refusedOffer 0x600000000, Edge.offering 0x600000000] = [0x600000000] := by decide

/-- RunFollowsIssueOrder. -/
theorem witness_run :
    ∀ e ∈ [Edge.offering 0x4DEADBEEF, quiet true true, Edge.offering 0x300000000], e.rst = false := by decide

/-- OwedResponsesAreAllDelivered. -/
theorem witness_owed_responses :
    [quiet true true, quiet true true].length = [Response.mk .ok 1, Response.mk .noKey 0].length ∧
      ∀ e ∈ [quiet true true, quiet true true],
        e.rst = false ∧ e.cmdValid = false ∧ e.rspDue = true ∧ e.rspReady = true := by decide

/-- FairRunsAnswerAndAccept, its first and last clauses: a run of the core in which the host takes every response, `rst` stays
low and nothing is offered. -/
theorem witness_fair_run :
    CoreRun draining (fun _ => prompt) ∧ HostTakes draining (fun _ => prompt) ∧ NoResetFrom (fun _ => prompt) 0 ∧
      ∀ m, 0 ≤ m → ((fun _ => prompt : Nat → Edge) m).cmdValid = false := by
  refine ⟨⟨fun n => ?_, fun n _ => .inl ⟨n, Nat.le_refl n, rfl⟩, fun n _ owed => ?_⟩, fun n => ?_, fun _ _ => rfl, fun _ _ => rfl⟩
  · cases n <;> rfl
  · cases n with
    | zero => exact ⟨0, Nat.le_refl 0, rfl⟩
    | succ _ => exact absurd rfl owed
  · exact ⟨n, Nat.le_refl n, fun held => Bool.noConfusion held.2⟩

/-- FairRunsAnswerAndAccept, its second clause: a run of the core that begins with an edge of reset. -/
theorem witness_run_after_reset :
    CoreRun (fun _ => State.reset) resetOnce ∧ (resetOnce 0).rst = true ∧ NoResetFrom resetOnce 1 := by
  refine ⟨⟨fun n => ?_, fun n _ => .inl ⟨n + 1, Nat.le_succ n, rfl⟩, fun _ _ owed => absurd rfl owed⟩, rfl, fun m h => ?_⟩
  · cases n <;> rfl
  · cases m with
    | zero => exact absurd h (by decide)
    | succ _ => rfl

/-- StepKeepsTheInvariant: a state that meets it in every part: a schedule, an owed response that is held, a delivered word. -/
theorem witness_invariant :
    State.Inv { State.reset with
      rk := some (KS Config.tables 0), owed := [⟨.illegalCmd, 0⟩], held := true, delivered := [0x200000000] } ∧
    ∃ t, step { State.reset with
      rk := some (KS Config.tables 0), owed := [⟨.illegalCmd, 0⟩], held := true, delivered := [0x200000000] } =
        .next t := by
  refine ⟨⟨fun ks h => ⟨0, (Option.some.inj h).symm⟩, fun r h _ => ?_, fun w h => ?_, fun _ => ?_⟩, ⟨_, rfl⟩⟩
  · rw [List.mem_singleton.mp h]
  · rw [List.mem_singleton.mp h]; exact ⟨by decide, fun _ => by decide⟩
  · exact List.cons_ne_nil _ _

/-- NopCommand, SetmodeCommand, RdstatCommand, RdkeyCommand: their data fields, on both sides of the boundary. -/
theorem witness_data_fields :
    (0x00000001#32 ≠ 0) ∧ (0x80000000#32 ≠ 0) ∧ (0x00000003#32).extractLsb' 2 30 = 0 ∧
      (0x00000004#32).extractLsb' 2 30 ≠ 0 ∧ (0x0000000F#32).extractLsb' 4 28 = 0 ∧
      (0x00000010#32).extractLsb' 4 28 ≠ 0 := by decide

/-- EncCommand, DecCommand, RdkeyCommand: states with a schedule, under both values of KIDX. -/
theorem witness_keyed_states :
    keyed.rk = some numbered ∧ keyed.keyv = true ∧ (keyedIn .fSub .k15).cfg.kidx = .k15 ∧
      (keyedIn .fRef .k16).cfg.kidx = .k16 ∧ (keyedIn .fRef .k16).rk = some numbered ∧
      (keyedIn .fSub .k15).rk = some numbered := by decide

/-- EncCommand, DecCommand, RdkeyCommand, KeylessCommandsAreRefused, KeyvFollowsKeygen: a state without one. -/
theorem witness_keyless_state : State.reset.keyv = false ∧ State.reset.rk = none ∧ ∃ k, Instr.rdkey 15 = .rdkey k :=
  ⟨rfl, rfl, 15, rfl⟩

/-- KeyvFollowsKeygen, its last clause. -/
theorem witness_keygen_from_keyless :
    ∃ t, exec (.keygen 0x12345678) State.reset = .next t ∧ State.reset.keyv = false ∧ t.keyv = true := ⟨_, rfl, rfl, rfl⟩

/-- FlagsAreSetByTheListedCommands: words that set each flag, and one that sets none. -/
theorem witness_issued_words :
    (∃ t, issueWord 0x5DEADBEEF (keyedIn .fRef .k16) = .next t) ∧ (∃ t, issueWord 0x5DEADBEEF State.reset = .next t) ∧
      (∃ t, issueWord 0x300000000 keyed = .next t) ∧ ∃ t, issueWord 0x700000000 keyed = .next t :=
  ⟨⟨_, rfl⟩, ⟨_, rfl⟩, ⟨_, rfl⟩, ⟨_, rfl⟩⟩

/-- KeyvFollowsKeygen, that no issued word clears KEYV. -/
theorem witness_issued_with_key : ∃ t, issueWord 0x300000000 keyed = .next t ∧ keyed.keyv = true := ⟨_, rfl, rfl⟩

/-- EachCommandWritesOnlyItsOwnState. -/
theorem witness_executed_commands :
    (∃ t, exec (.dec 0) (keyedIn .fRef .k16) = .next t) ∧ (∃ t, exec (.keygen 0) keyed = .next t) ∧
      (∃ t, exec (.rdkey 0) State.reset = .next t) ∧ ∃ t, exec .rdstat keyed = .next t :=
  ⟨⟨_, rfl⟩, ⟨_, rfl⟩, ⟨_, rfl⟩, ⟨_, rfl⟩⟩

/-- FRefResponsesIgnoreKeysAndKidx. -/
theorem witness_fref_states :
    (keyedIn .fRef .k15).rk = some numbered ∧ (tfixIn .fRef .k16).rk = some tfixSchedule ∧
      (keyedIn .fRef .k15).cfg.fmode = .fRef ∧ (tfixIn .fRef .k16).cfg.fmode = .fRef ∧
      (Instr.dec 7 = .enc 7 ∨ Instr.dec 7 = .dec 7) := by decide

/-- TransformRoundTrip. -/
theorem witness_invertible_modes :
    Cfg.invertible ⟨.fRef, .k15⟩ = true ∧ Cfg.invertible ⟨.fRef, .k16⟩ = true ∧ Cfg.invertible ⟨.fSub, .k15⟩ = true ∧
      Cfg.invertible ⟨.fSub, .k16⟩ = false := by decide

/-- RoundTripOnTheMachine. -/
theorem witness_round_trip_state :
    (keyedIn .fSub .k15).rk = some numbered ∧ (keyedIn .fSub .k15).cfg.invertible = true ∧
      (keyedIn .fRef .k16).rk = some numbered ∧ (keyedIn .fRef .k16).cfg.invertible = true := by decide

/-- TableSetIsConstructedExactlyWhenValid. -/
theorem witness_valid_and_invalid_tables :
    rawTablesValid (rawTables tid) = true ∧
      rawTablesValid { rawTables tid with e := (rawTables tid).e.set 23 16 } = false := by decide +kernel

/-- SpacesHaveExactlyTheirWords. -/
theorem witness_space_word : memRead tid (some numbered) .rk 15 = some 16 := by decide

/-- PermuteSelectsBits: the first and the last position of a table of 24 entries. -/
theorem witness_table_positions : 0 < 24 ∧ 23 < 24 := by decide

/-- ShiftedDuplicateIsTheRotation, RoundKeyIndicesAndReads: both ends of their ranges. -/
theorem witness_shift_amounts : (0 : Nat) ≤ 15 ∧ (15 : Nat) ≤ 15 ∧ (0 : Nat) < 16 ∧ (15 : Nat) < 16 := by decide

/-- RoundFunctionCorners: two half-blocks with one expansion: an E that never reads bit 1. -/
theorem witness_equal_expansions :
    expand { tid with e := Vector.replicate 24 0 } 0x0000 = expand { tid with e := Vector.replicate 24 0 } 0x0002 := by
  decide

/-- TransformReadsTheDrawOnlyUnderK16. -/
theorem witness_transforms_without_draw :
    ¬ (Direction.encrypt = .decrypt ∧ KIdx.k16 = .k16) ∧ ¬ (Direction.decrypt = .decrypt ∧ KIdx.k15 = .k16) := by decide

/-- IdentityPClosedForm. -/
theorem witness_identity_p : tid.p = Vector.ofFn id := rfl

end Sys2Proof.Tests
end

section
/-!
Legality and decoding of a word by its two fields (rules R72 to R75).
-/

namespace Sys2Proof

/-- The opcode of a command (R74). -/
def Instr.opcode : Instr → BitVec 4
  | .nop => 0x0
  | .setmode _ _ => 0x1
  | .keygen _ => 0x2
  | .enc _ => 0x4
  | .dec _ => 0x5
  | .rdstat => 0x6
  | .rdkey _ => 0x7

/-- The commands that read `RK`: ENC, DEC and RDKEY (R36). -/
def Instr.readsKeys : Instr → Bool
  | .enc _ | .dec _ | .rdkey _ => true
  | .nop | .setmode _ _ | .keygen _ | .rdstat => false

end Sys2Proof

namespace Sys2Proof.Machine

theorem word_append_inj {op op' : BitVec 4} {data data' : Data} :
    op ++ data = op' ++ data' ↔ op = op' ∧ data = data' := by
  refine ⟨fun h => ⟨?_, ?_⟩, fun ⟨ho, hd⟩ => by rw [ho, hd]⟩
  · simpa only [opField_append] using congrArg opField h
  · simpa only [dataField_append] using congrArg dataField h

/-- A row that fixes the opcode, and the data bits of `mask` to 0, selects the words of that opcode in which those bits
are 0. -/
theorem selects_append (m : String) (p op : BitVec 4) (mask data : Data) :
    OpcodeRow.selects ⟨m, 0xF#4 ++ mask, p ++ 0#32⟩ (op ++ data) = true ↔ op = p ∧ data &&& mask = 0 := by
  have keep : op &&& 0xF#4 = op := BitVec.and_allOnes
  rw [OpcodeRow.selects, beq_iff_eq, BitVec.and_append, keep, word_append_inj]
  rfl

/-- A mask of the bits from `k` up clears a value exactly if its field above bit `k` is 0. -/
theorem and_highMask_eq_zero_iff {w k len : Nat} (h : k + len = w) (v : BitVec w) :
    v &&& (BitVec.allOnes w <<< k) = 0 ↔ v.extractLsb' k len = 0 := by
  constructor
  · intro masked
    ext i hi
    have bit := congrArg (·.getLsbD (k + i)) masked
    simpa [hi, show k + i < w by omega] using bit
  · intro field
    ext i hi
    by_cases low : i < k
    · simp [low]
    · have bit := congrArg (·.getLsbD (i - k)) field
      simpa [low, hi, show i - k < len by omega, show k + (i - k) = i by omega] using bit

/-- A row whose mask is all ones fixes the data to 0. -/
theorem selects_zeroData (m : String) (p op : BitVec 4) (data : Data) :
    OpcodeRow.selects ⟨m, 0xF#4 ++ BitVec.allOnes 32, p ++ 0#32⟩ (op ++ data) = true ↔ op = p ∧ data = 0 := by
  rw [selects_append, BitVec.and_allOnes]

/-- A row whose mask leaves the data out selects every word of its opcode. -/
theorem selects_anyData (m : String) (p op : BitVec 4) (data : Data) :
    OpcodeRow.selects ⟨m, 0xF#4 ++ 0#32, p ++ 0#32⟩ (op ++ data) = true ↔ op = p :=
  (selects_append m p op 0 data).trans (and_iff_left BitVec.and_zero)

/-- A row whose mask covers the data bits from `k` up leaves the operand below them free. -/
theorem selects_lowData (m : String) (p op : BitVec 4) (data : Data) (k len : Nat) (h : k + len = 32) :
    OpcodeRow.selects ⟨m, 0xF#4 ++ BitVec.allOnes 32 <<< k, p ++ 0#32⟩ (op ++ data) = true ↔
      op = p ∧ data.extractLsb' k len = 0 := by
  rw [selects_append, and_highMask_eq_zero_iff h]

/-- The opcode map as a condition on the two fields of a word (R73, R74). -/
theorem legalWord_append_iff (op : BitVec 4) (data : Data) : legalWord (op ++ data) = true ↔
    op = 0x0#4 ∧ data = 0 ∨ op = 0x1#4 ∧ data.extractLsb' 2 30 = 0 ∨ op = 0x2#4 ∨ op = 0x4#4 ∨ op = 0x5#4 ∨
      op = 0x6#4 ∧ data = 0 ∨ op = 0x7#4 ∧ data.extractLsb' 4 28 = 0 := by
  simp only [legalWord, opcodeMap, List.any_cons, List.any_nil, Bool.or_false, Bool.or_eq_true]
  exact or_congr (selects_zeroData "NOP" 0x0 op data) (or_congr (selects_lowData "SETMODE" 0x1 op data 2 30 rfl)
    (or_congr (selects_anyData "KEYGEN" 0x2 op data) (or_congr (selects_anyData "ENC" 0x4 op data)
    (or_congr (selects_anyData "DEC" 0x5 op data) (or_congr (selects_zeroData "RDSTAT" 0x6 op data)
    (selects_lowData "RDKEY" 0x7 op data 4 28 rfl))))))

/-- A check of the must-be-zero bits accepts exactly where they are 0. -/
theorem checked_eq_ok_iff (c : Prop) [Decidable c] (x : Reject) (i j : Instr) :
    (if c then Except.ok i else Except.error x) = .ok j ↔ c ∧ i = j := by
  split <;> simp [*]

/-- Everything the decoder accepts, by the fields of the word (R73 to R75). -/
theorem decodeFields_eq_ok_iff (op : BitVec 4) (data : Data) (i : Instr) : decodeFields op data = .ok i ↔
    op = 0x0#4 ∧ data = 0 ∧ .nop = i ∨
    op = 0x1#4 ∧ data.extractLsb' 2 30 = 0 ∧ .setmode (.ofBit (data.getLsbD 0)) (.ofBit (data.getLsbD 1)) = i ∨
    op = 0x2#4 ∧ .keygen data = i ∨ op = 0x4#4 ∧ .enc data = i ∨ op = 0x5#4 ∧ .dec data = i ∨
    op = 0x6#4 ∧ data = 0 ∧ .rdstat = i ∨
    op = 0x7#4 ∧ data.extractLsb' 4 28 = 0 ∧ .rdkey (data.extractLsb' 0 4).toFin = i := by
  have every : op = 0x0#4 ∨ op = 0x1#4 ∨ op = 0x2#4 ∨ op = 0x4#4 ∨ op = 0x5#4 ∨ op = 0x6#4 ∨ op = 0x7#4 ∨
      op ∈ [0x3#4, 0x8#4, 0x9#4, 0xA#4, 0xB#4, 0xC#4, 0xD#4, 0xE#4, 0xF#4] := by
    revert op; decide
  rcases every with rfl | rfl | rfl | rfl | rfl | rfl | rfl | reserved
  case inr.inr.inr.inr.inr.inr.inr => fin_cases reserved <;> simp [decodeFields]
  all_goals simp [decodeFields, checked_eq_ok_iff]

/-- A word decodes to a command exactly if it is legal (R74, R75). -/
theorem exists_decode_iff_legalWord (w : CmdWord) : (∃ i, decode w = .ok i) ↔ legalWord w = true := by
  rw [← opField_append_dataField w, decode_append, legalWord_append_iff]
  simp only [decodeFields_eq_ok_iff, exists_or, exists_and_left, exists_eq', and_true]

/-- A command is decoded from its own opcode (R74). -/
theorem opField_of_decode {w : CmdWord} {i : Instr} (h : decode w = .ok i) : opField w = i.opcode := by
  obtain ⟨hop, -, rfl⟩ | ⟨hop, -, rfl⟩ | ⟨hop, rfl⟩ | ⟨hop, rfl⟩ | ⟨hop, rfl⟩ | ⟨hop, -, rfl⟩ | ⟨hop, -, rfl⟩ :=
    (decodeFields_eq_ok_iff _ _ _).mp h
  all_goals exact hop

/-- The opcodes of the commands that read `RK` (R74). -/
theorem readsKeys_iff_opField {w : CmdWord} {i : Instr} (h : decode w = .ok i) :
    i.readsKeys = true ↔ opField w = 0x4#4 ∨ opField w = 0x5#4 ∨ opField w = 0x7#4 := by
  rw [opField_of_decode h]
  cases i <;> simp [Instr.opcode, Instr.readsKeys]

/-- The opcode of DEC (R74). -/
theorem isDec_iff_opField {w : CmdWord} {i : Instr} (h : decode w = .ok i) :
    (∃ b, i = .dec b) ↔ opField w = 0x5#4 := by
  rw [opField_of_decode h]
  cases i <;> simp [Instr.opcode]

/-- Every word with the opcode of ENC or DEC is legal (R74). -/
theorem opField_of_illegal {w : CmdWord} (h : legalWord w = false) : opField w ≠ 0x4#4 ∧ opField w ≠ 0x5#4 := by
  rw [← opField_append_dataField w, Bool.eq_false_iff, ne_eq, legalWord_append_iff] at h
  tauto

end Sys2Proof.Machine
end

section
/-!
What an issued word does to the state, said once: a word is refused with ILLEGAL_CMD, or its command is refused with
NO_KEY, or the command makes its own write and answers OK (rules R20, R194, R201, R202).
-/

namespace Sys2Proof.Machine

/-- What a command that is not refused writes before it answers (R29, R32, R35). -/
def State.written (s : State) : Instr → State
  | .setmode fmode kidx => s.writeCfg fmode kidx
  | .keygen seed => s.writeSchedule (KS Config.tables seed)
  | .dec _ => s.readOutOfRange
  | .nop | .enc _ | .rdstat | .rdkey _ => s

@[simp] theorem State.answering_status (s : State) (d : Data) : (s.answering d).status = s.status := rfl
@[simp] theorem State.answering_owed (s : State) (d : Data) : (s.answering d).owed = s.owed ++ [⟨.ok, d⟩] := rfl
@[simp] theorem State.answering_keyv (s : State) (d : Data) : (s.answering d).keyv = s.keyv := rfl
@[simp] theorem State.afterNoKey_status (s : State) : s.afterNoKey.status = { s.status with nokeyf := true } := rfl
@[simp] theorem State.afterNoKey_owed (s : State) : s.afterNoKey.owed = s.owed ++ [⟨.noKey, 0⟩] := rfl
@[simp] theorem State.afterNoKey_keyv (s : State) : s.afterNoKey.keyv = s.keyv := rfl
@[simp] theorem State.afterIllegalCmd_status (s : State) : s.afterIllegalCmd.status = { s.status with illf := true } := rfl
@[simp] theorem State.afterIllegalCmd_owed (s : State) : s.afterIllegalCmd.owed = s.owed ++ [⟨.illegalCmd, 0⟩] := rfl
@[simp] theorem State.afterIllegalCmd_keyv (s : State) : s.afterIllegalCmd.keyv = s.keyv := rfl

theorem State.raise_illegalCmd (s : State) : s.raise .illegalCmd = s.afterIllegalCmd := rfl
theorem State.raise_noKey (s : State) : s.raise .noKey = s.afterNoKey := rfl
theorem State.respond_ok (s : State) (d : Data) : s.respond .ok d = s.answering d := rfl

/-! ### KEYV (R31) -/

theorem State.keyv_eq_false_iff (s : State) : s.keyv = false ↔ s.rk = none :=
  Option.isSome_eq_false_iff.trans Option.isNone_iff_eq_none

theorem State.keyv_eq_true_iff (s : State) : s.keyv = true ↔ ∃ ks, s.rk = some ks := Option.isSome_iff_exists

/-! ### The write of a command -/

@[simp] theorem State.written_owed (s : State) (i : Instr) : (s.written i).owed = s.owed := by
  cases i <;> simp [State.written]

/-- KEYGEN alone gives `RK` a value (R31, R35). -/
theorem State.written_keyv_iff (s : State) (i : Instr) :
    (s.written i).keyv = true ↔ s.keyv = true ∨ ∃ seed, i = .keygen seed := by
  cases i <;> simp [State.written, State.keyv]

/-- The read of index 16 sets OORF under `K16` and touches no other flag (R32). -/
theorem State.readOutOfRange_status (s : State) :
    s.readOutOfRange.status = { s.status with oorf := s.status.oorf || decide (s.cfg.kidx = .k16) } := by
  cases h : s.cfg.kidx
  · simp [s.readOutOfRange_of_k15 h]
  · simp [s.readOutOfRange_of_k16 h]

@[simp] theorem State.written_illf (s : State) (i : Instr) : (s.written i).status.illf = s.status.illf := by
  cases i <;> simp [State.written, State.readOutOfRange_status]

@[simp] theorem State.written_nokeyf (s : State) (i : Instr) : (s.written i).status.nokeyf = s.status.nokeyf := by
  cases i <;> simp [State.written, State.readOutOfRange_status]

/-- DEC under `K16` alone sets OORF (R32). -/
theorem State.written_oorf_iff (s : State) (i : Instr) :
    (s.written i).status.oorf = true ↔ s.status.oorf = true ∨ (∃ b, i = .dec b) ∧ s.cfg.kidx = .k16 := by
  cases i <;> simp [State.written, State.readOutOfRange_status]

/-! ### Commands and issued words -/

theorem exec_enc_of_none {s : State} (h : s.rk = none) (b : Block) : exec (.enc b) s = .next s.afterNoKey :=
  congrArg Host.Outcome.next (State.enc_of_none _ _ b s h)

theorem exec_enc_of_some {s : State} {ks : KeySchedule} (h : s.rk = some ks) (b : Block) :
    exec (.enc b) s = .next (s.answering (XF Config.tables s.cfg ks .encrypt b (Config.koor s.draws))) :=
  congrArg Host.Outcome.next (State.enc_of_some _ _ b s ks h)

theorem exec_dec_of_none {s : State} (h : s.rk = none) (b : Block) : exec (.dec b) s = .next s.afterNoKey :=
  congrArg Host.Outcome.next (State.dec_of_none _ _ b s h)

theorem exec_dec_of_some {s : State} {ks : KeySchedule} (h : s.rk = some ks) (b : Block) :
    exec (.dec b) s = .next (s.readOutOfRange.answering (XF Config.tables s.cfg ks .decrypt b (Config.koor s.draws))) :=
  congrArg Host.Outcome.next (State.dec_of_some _ _ b s ks h)

theorem exec_rdkey_of_none {s : State} (h : s.rk = none) (idx : Fin 16) :
    exec (.rdkey idx) s = .next s.afterNoKey := by
  simp [exec, execRdkey, h, State.raise_noKey]

theorem exec_rdkey_of_some {s : State} {ks : KeySchedule} (h : s.rk = some ks) (idx : Fin 16) :
    exec (.rdkey idx) s = .next (s.answering (ks[idx].setWidth 32)) := by
  simp [exec, execRdkey, h, State.respond_ok]

/-- Without a schedule a command that reads `RK` is refused with NO_KEY (R196). -/
theorem exec_of_keyless {s : State} {i : Instr} (hk : s.keyv = false) (hi : i.readsKeys = true) :
    exec i s = .next s.afterNoKey := by
  have hrk := s.keyv_eq_false_iff.mp hk
  cases i with
  | enc b => exact exec_enc_of_none hrk b
  | dec b => exact exec_dec_of_none hrk b
  | rdkey idx => exact exec_rdkey_of_none hrk idx
  | nop | setmode | keygen | rdstat => cases hi

/-- Every other command makes its write and answers OK (R20, R194). -/
theorem exec_of_admitted {s : State} {i : Instr} (h : i.readsKeys = true → s.keyv = true) :
    ∃ d, exec i s = .next ((s.written i).answering d) := by
  have schedule (hi : i.readsKeys = true) : ∃ ks, s.rk = some ks := s.keyv_eq_true_iff.mp (h hi)
  cases i with
  | nop | setmode | keygen | rdstat => exact ⟨_, rfl⟩
  | enc b =>
    obtain ⟨ks, hks⟩ := schedule rfl
    exact ⟨_, exec_enc_of_some hks b⟩
  | dec b =>
    obtain ⟨ks, hks⟩ := schedule rfl
    exact ⟨_, exec_dec_of_some hks b⟩
  | rdkey idx =>
    obtain ⟨ks, hks⟩ := schedule rfl
    exact ⟨_, exec_rdkey_of_some hks idx⟩

/-- Everything a legal command can do: be refused with NO_KEY, or make its write and answer OK. -/
theorem exec_cases {i : Instr} {s t : State} (h : exec i s = .next t) :
    (i.readsKeys = true ∧ s.keyv = false ∧ t = s.afterNoKey) ∨
      ((i.readsKeys = true → s.keyv = true) ∧ ∃ d, t = (s.written i).answering d) := by
  by_cases refused : i.readsKeys = true ∧ s.keyv = false
  · obtain ⟨hi, hk⟩ := refused
    rw [exec_of_keyless hk hi] at h
    exact .inl ⟨hi, hk, (Host.Outcome.next.inj h).symm⟩
  · have admitted : i.readsKeys = true → s.keyv = true := by simpa using refused
    obtain ⟨d, hd⟩ := exec_of_admitted admitted
    rw [hd] at h
    exact .inr ⟨admitted, d, (Host.Outcome.next.inj h).symm⟩

/-- Everything an issued word can do: be refused with ILLEGAL_CMD, or have its command executed (R64, R195). -/
theorem issueWord_cases {w : CmdWord} {s t : State} (h : issueWord w s = .next t) :
    (legalWord w = false ∧ t = s.afterIllegalCmd) ∨
      ∃ i, legalWord w = true ∧ decode w = .ok i ∧ exec i s = .next t := by
  have legal := exists_decode_iff_legalWord w
  cases hd : decode w with
  | error x =>
    rw [issueWord_of_error hd, State.raise_illegalCmd] at h
    exact .inl ⟨by simpa [hd] using legal, (Host.Outcome.next.inj h).symm⟩
  | ok i =>
    rw [issueWord_of_ok hd] at h
    exact .inr ⟨i, legal.mp ⟨i, hd⟩, rfl, h⟩

end Sys2Proof.Machine
end

section
/-!
The family of 10_state.md: KEYV and the sticky flags (rules R31 to R33).
-/

namespace Sys2Proof.Machine

/-- KEYV is 1 after a command exactly if it was before or the command is a KEYGEN (R31). -/
theorem exec_keyv_iff {i : Instr} {s t : State} (h : exec i s = .next t) :
    t.keyv = true ↔ s.keyv = true ∨ ∃ seed, i = .keygen seed := by
  obtain ⟨hi, -, rfl⟩ | ⟨-, d, rfl⟩ := exec_cases h
  · have other : ¬ ∃ seed, i = .keygen seed := by rintro ⟨seed, rfl⟩; cases hi
    simp [other]
  · rw [State.answering_keyv, s.written_keyv_iff i]

/-- No issued word, legal or not, clears KEYV (R31). -/
theorem issueWord_keeps_keyv {w : CmdWord} {s t : State} (h : issueWord w s = .next t) (hk : s.keyv = true) :
    t.keyv = true := by
  obtain ⟨-, rfl⟩ | ⟨i, -, -, hx⟩ := issueWord_cases h
  · rw [State.afterIllegalCmd_keyv, hk]
  · exact (exec_keyv_iff hx).mpr (.inl hk)

/-- Settles O29. A KEYGEN alone writes `RK`, whose presence is KEYV, and a command that reads `RK` is refused without one. -/
theorem keyvFollowsKeygen : Obligations.KeyvFollowsKeygen := by
  refine ⟨rfl, fun s seed => ⟨_, rfl, rfl⟩, fun w s t h => issueWord_keeps_keyv h, State.keyv_eq_false_iff, ?refused, ?set⟩
  case refused =>
    intro s hk
    exact ⟨fun _ => exec_of_keyless hk rfl, fun _ => exec_of_keyless hk rfl, fun _ => exec_of_keyless hk rfl⟩
  case set =>
    intro i s t h before after
    simpa [before] using (exec_keyv_iff h).mp after

/-- Settles O30. Each of the three things an issued word can do is read off its effect on the flags. -/
theorem flagsAreSetByTheListedCommands : Obligations.FlagsAreSetByTheListedCommands := by
  intro w s t h
  obtain ⟨illegal, rfl⟩ | ⟨i, legal, hd, hx⟩ := issueWord_cases h
  · obtain ⟨notEnc, notDec⟩ := opField_of_illegal illegal
    simp [illegal, notEnc, notDec]
  have reads := readsKeys_iff_opField hd
  have isDec := isDec_iff_opField hd
  obtain ⟨hi, keyless, rfl⟩ | ⟨admitted, d, rfl⟩ := exec_cases hx
  · have opcode := reads.mp hi
    simp [legal, keyless, opcode]
  · cases keyv : s.keyv with
    | true => simp [legal, State.written_oorf_iff, isDec]
    | false =>
      have noReader : ¬ i.readsKeys = true := fun hi => by simp [admitted hi] at keyv
      obtain ⟨notEnc, notDec, notRdkey⟩ : opField w ≠ 0x4#4 ∧ opField w ≠ 0x5#4 ∧ opField w ≠ 0x7#4 := by
        simpa [reads] using noReader
      simp [legal, State.written_oorf_iff, isDec, notEnc, notDec, notRdkey]

end Sys2Proof.Machine
end

section
/-!
The family of 30_encoding.md: the illegal words (rules R75, R195).
-/

namespace Sys2Proof.Machine

/-- The opcodes without a row in the opcode map (R74, R75). -/
theorem reservedOpcode_iff (op : BitVec 4) : (op = 0x3 ∨ 0x8 ≤ op.toNat) ↔
    ¬ (op = 0x0 ∨ op = 0x1 ∨ op = 0x2 ∨ op = 0x4 ∨ op = 0x5 ∨ op = 0x6 ∨ op = 0x7) := by
  revert op; decide

/-- R75's list of the illegal words, by the fields of the word. -/
theorem legalWord_append_eq_false_iff (op : BitVec 4) (data : Data) : legalWord (op ++ data) = false ↔
    (op = 0x3 ∨ 0x8 ≤ op.toNat) ∨ ((op = 0x0 ∨ op = 0x6) ∧ data ≠ 0) ∨
      (op = 0x1 ∧ data.extractLsb' 2 30 ≠ 0) ∨ (op = 0x7 ∧ data.extractLsb' 4 28 ≠ 0) := by
  rw [Bool.eq_false_iff, ne_eq, legalWord_append_iff]
  by_cases reserved : op = 0x3 ∨ 0x8 ≤ op.toNat
  · have unmapped := (reservedOpcode_iff op).mp reserved
    tauto
  · have mapped := not_not.mp (mt (reservedOpcode_iff op).mpr reserved)
    rcases mapped with rfl | rfl | rfl | rfl | rfl | rfl | rfl <;> simp

/-- An issued illegal word is refused with ILLEGAL_CMD in every state (R75, R195). -/
theorem issueWord_of_illegal {w : CmdWord} (h : legalWord w = false) (s : State) :
    issueWord w s = .next s.afterIllegalCmd := by
  cases hd : decode w with
  | error x => rw [issueWord_of_error hd, State.raise_illegalCmd]
  | ok i =>
    have legal : legalWord w = true := (exists_decode_iff_legalWord w).mp ⟨i, hd⟩
    simp [legal] at h

/-- Settles O4. R75's list is the complement of the opcode map, opcode by opcode, and what does not decode is refused. -/
theorem illegalWordsAreTheListedOnesAndRefused : Obligations.IllegalWordsAreTheListedOnesAndRefused := by
  refine fun w => ⟨?listed, issueWord_of_illegal⟩
  case listed => simpa only [opField_append_dataField] using legalWord_append_eq_false_iff (opField w) (dataField w)

end Sys2Proof.Machine
end

section
/-!
The family of 41_key_schedule.md: KEYGEN and the shift amounts (rules R113, R120).
-/

namespace Sys2Proof.Machine

/-- TID's PC1 hands the seed on as it is. -/
theorem permute_tid_pc1 (v : BitVec 32) : permute v tid.pc1 = v := by
  ext i h
  simp [permute_getElem, tid]

/-- TID's PC2 keeps the low 24 bits. -/
theorem permute_tid_pc2 (v : BitVec 32) : permute v tid.pc2 = v.setWidth 24 := by
  ext i h
  simp [permute_getElem, tid, BitVec.getLsbD_eq_getElem (show i < 32 by omega)]

/-- On TID the working registers are the halves of the seed, duplicated (R111, R112). -/
theorem loadKeyRegs_tid (seed : Seed) :
    loadKeyRegs tid seed = ⟨hi16 seed ++ hi16 seed, lo16 seed ++ lo16 seed⟩ := by
  simp [loadKeyRegs, permute_tid_pc1]

/-- On TID round key n is the low 24 bits of round n's value (R117). -/
theorem KS_tid_getElem (seed : Seed) (n : Nat) (h : n < 16) :
    (KS tid seed)[n] = (roundValue (loadKeyRegs tid seed) n).setWidth 24 := by
  rw [KS_getElem, permute_tid_pc2]

/-- Every word of opcode 2 is a KEYGEN of its data (R74, R120). -/
theorem decode_keygenWord (data : Data) : decode (0x2#4 ++ data) = .ok (.keygen data) := by
  rw [decode_append]
  rfl

/-- KEYGEN writes the schedule of its seed and answers OK in every state (R120). -/
theorem exec_keygen (s : State) (seed : Seed) :
    exec (.keygen seed) s = .next (State.answering { s with rk := some (KS Config.tables seed) } 0) := rfl

/-- Settles O39. The rule of R113 is the recursion of `shiftBefore`, and the two rows evaluate it at rounds 0 to 15. -/
theorem shiftSequenceIsTheLiteralOne : Obligations.ShiftSequenceIsTheLiteralOne := by
  refine ⟨rfl, fun n => ⟨rfl, rfl⟩, ?increments, ?amounts⟩
  case increments => decide
  case amounts => decide

/-- Settles O23. The effect is `exec_keygen`; on TID both permutations only cut widths, so the worked example is a rotation
by `shift 0 = 2` and one by `shift 11 = 0`. -/
theorem keygenCommand : Obligations.KeygenCommand := by
  have round0 : roundValue (loadKeyRegs tid 0x12345678) 0 = 0x048D159E := by
    rw [loadKeyRegs_tid]
    decide
  have round11 : roundValue (loadKeyRegs tid 0x12345678) 11 = 0x12345678 := by
    rw [loadKeyRegs_tid]
    decide
  refine ⟨decode_keygenWord, fun s seed => ⟨_, exec_keygen s seed, rfl, rfl⟩, ?halfC, ?halfD, by decide, by decide,
    by decide, round0, ?key0, by decide, ?key11⟩
  case halfC | halfD =>
    rw [permute_tid_pc1]
    decide
  case key0 =>
    rw [KS_tid_getElem, round0]
    decide
  case key11 =>
    rw [KS_tid_getElem, round11]
    decide

end Sys2Proof.Machine
end

section
/-!
The family of 42_round_function.md: the groups, the look-up and the substitution (rules R132 to R138).
-/

namespace Sys2Proof.Machine

/-! ### The word a group addresses (R133, R134) -/

/-- A group is its row above its column, so it is the row-major address of its S-box word (R134). -/
theorem groupRow_groupCol_address (g : BitVec 6) : 16 * (groupRow g).val + (groupCol g).val = g.toNat := by
  have row : (groupRow g).val = g.toNat / 16 % 4 := by
    simp [groupRow, Nat.shiftRight_eq_div_pow]
  have col : (groupCol g).val = g.toNat % 16 := by
    simp [groupCol]
  have bound : g.toNat < 64 := g.isLt
  omega

/-- `ROM_Sk` holds its S-box row by row: the word at `16 * row + col` is the entry at row and column (R50). -/
theorem memRead_romS (ts : TableSet) (rk : Option KeySchedule) (k row : Fin 4) (col : Fin 16) :
    memRead ts rk (.romS k) (16 * row.val + col.val) = some (sboxEntry ts k row col).toNat := by
  have bound : 16 * row.val + col.val < 64 := by omega
  have rowOf : (16 * row.val + col.val) / 16 = row.val := by omega
  have colOf : (16 * row.val + col.val) % 16 = col.val := by omega
  simp [memRead, bound, rowOf, colOf]

/-- Settles O45. The groups, rows and columns are their definitions; the read at a group is the read at its row-major
address. -/
theorem lookupAddressIsTheGroup : Obligations.LookupAddressIsTheGroup := by
  refine fun ts rk m => ⟨⟨rfl, rfl, rfl, rfl⟩, fun i => ⟨rfl, rfl, rfl, groupRow_groupCol_address _, ?word⟩⟩
  rw [← groupRow_groupCol_address, memRead_romS, lookup]

/-! ### The substitution (R135) -/

/-- The fields of four concatenated nibbles, the first nibble the most significant (R12). -/
theorem extractLsb'_append_nibbles (a b c d : Nibble) :
    (a ++ b ++ c ++ d).extractLsb' 12 4 = a ∧ (a ++ b ++ c ++ d).extractLsb' 8 4 = b ∧
      (a ++ b ++ c ++ d).extractLsb' 4 4 = c ∧ (a ++ b ++ c ++ d).extractLsb' 0 4 = d := by
  have above {n : Nat} (x : BitVec n) (y : Nibble) (start : Nat) :
      (x ++ y).extractLsb' (start + 4) 4 = x.extractLsb' start 4 :=
    BitVec.extractLsb'_append_eq_of_le (Nat.le_add_left 4 start)
  refine ⟨?first, ?second, ?third, BitVec.extractLsb'_append_eq_right⟩
  case first => rw [above _ d 8, above _ c 4, BitVec.extractLsb'_append_eq_left]
  case second => rw [above _ d 4, above _ c 0, BitVec.extractLsb'_append_eq_right]
  case third => rw [above _ d 0, BitVec.extractLsb'_append_eq_right]

/-- Settles O46. The substitution output is four concatenated nibbles, and nibble i is one of its four fields. -/
theorem substitutionPlacesTheNibbles : Obligations.SubstitutionPlacesTheNibbles := by
  intro ts m i
  obtain ⟨first, second, third, fourth⟩ :=
    extractLsb'_append_nibbles (lookup ts m 0) (lookup ts m 1) (lookup ts m 2) (lookup ts m 3)
  match i with
  | 0 => exact first
  | 1 => exact second
  | 2 => exact third
  | 3 => exact fourth

/-! ### The round function (R132, R138) -/

/-- Settles O47. Each mode is one equation of `F`. -/
theorem roundFunctionIsItsFourSteps : Obligations.RoundFunctionIsItsFourSteps := by
  intro ts fmode r k
  cases fmode with
  | fRef => exact F_fRef ts r k
  | fSub => exact F_fSub ts r k

end Sys2Proof.Machine
end

section
/-!
The family of 43_feistel_transform.md: the rounds, the round-key indices, the loop, ENC and DEC (rules R150 to R161).
-/

namespace Sys2Proof.Machine

/-! ### One round (R151, R152, R154 to R158) -/

@[simp] theorem feistelRound_encrypt (ts : TableSet) (fmode : FMode) (k : RoundKey) (h : Halves) :
    feistelRound ts fmode .encrypt k h = ⟨h.right, h.left ^^^ F ts fmode h.right k⟩ := rfl

@[simp] theorem feistelRound_decrypt (ts : TableSet) (fmode : FMode) (k : RoundKey) (h : Halves) :
    feistelRound ts fmode .decrypt k h = ⟨h.right ^^^ F ts fmode h.left k, h.left⟩ := rfl

/-- Under `F_REF` a round does not depend on its key (R139). -/
theorem feistelRound_fRef (ts : TableSet) (dir : Direction) (k k' : RoundKey) (h : Halves) :
    feistelRound ts .fRef dir k h = feistelRound ts .fRef dir k' h := by
  cases dir <;> simp [F_fRef]

/-- The Decrypt index as the one choice of R158. -/
theorem keyIndex_decrypt (kidx : KIdx) (n : Nat) :
    keyIndex kidx .decrypt n = if kidx = .k15 then 15 - n else 16 - n := by
  cases kidx <;> rfl

/-- The read at an index as the one choice of R158. -/
theorem keyAt_eq_dite (rk : KeySchedule) (koor : RoundKey) (j : Nat) :
    keyAt rk koor j = if h : j ≤ 15 then rk[j] else koor := by
  split
  · exact keyAt_of_lt rk koor j (by omega)
  · exact keyAt_of_le rk koor j (by omega)

/-- Only round 0 of a Decrypt under `K16` leaves 0..15 (R59). -/
theorem keyIndex_outOfRange_iff {n : Nat} (h : n < 16) (kidx : KIdx) (dir : Direction) :
    15 < keyIndex kidx dir n ↔ kidx = .k16 ∧ dir = .decrypt ∧ n = 0 := by
  cases dir with
  | encrypt => simp [keyIndex_encrypt, Nat.le_of_lt_succ h]
  | decrypt =>
    cases kidx with
    | k15 => simp [keyIndex_decrypt_k15]
    | k16 => simp only [keyIndex_decrypt_k16, true_and]; omega

/-- Settles O49. Each Direction is one equation of the rounds. -/
theorem roundsAreAsWritten : Obligations.RoundsAreAsWritten :=
  fun _ _ _ _ _ => ⟨rfl, rfl⟩

/-- Settles O51. The indices are their equations, and the read depends on whether the index is below 16. -/
theorem roundKeyIndicesAndReads : Obligations.RoundKeyIndicesAndReads := by
  refine ⟨fun n hn => ⟨?encrypt, rfl, rfl, keyIndex_outOfRange_iff hn, ?positive⟩, fun rk koor => ⟨?inRange, ?draw⟩⟩
  case encrypt => exact fun kidx => keyIndex_encrypt kidx n
  case positive => rw [keyIndex_decrypt_k16]; omega
  case inRange => exact fun j => keyAt_of_lt rk koor j j.isLt
  case draw => exact keyAt_of_le rk koor 16 le_rfl

/-! ### The loop (R158) -/

/-- The pair (L, R) of the halves, the state of the loop of R158. -/
def Halves.pair (h : Halves) : Half × Half := (h.left, h.right)

@[simp] theorem Halves.pair_mk (l r : Half) : Halves.pair ⟨l, r⟩ = (l, r) := rfl
@[simp] theorem Halves.pair_fst (h : Halves) : h.pair.1 = h.left := rfl
@[simp] theorem Halves.pair_snd (h : Halves) : h.pair.2 = h.right := rfl

/-- A fold is the end of any sequence that starts at its first value and takes its steps. -/
theorem foldl_eq_of_forall_succ {α : Type} (g : Nat → α) :
    ∀ {m : Nat} {f : α → Fin m → α} {x : α}, x = g 0 → (∀ n : Fin m, g (n + 1) = f (g n) n) → Fin.foldl m f x = g m
  | 0, _, _, start, _ => start
  | m + 1, f, x, start, next => by
    have before := foldl_eq_of_forall_succ (f := fun y n => f y n.castSucc) g start fun n => next n.castSucc
    rw [Fin.foldl_succ_last, before]
    exact (next (Fin.last m)).symm

/-- Settles O52. The pairs of halves before each round start at the halves of the Block and take the loop's steps. -/
theorem transformIsTheLoop : Obligations.TransformIsTheLoop := by
  intro ts cfg rk dir b koor
  unfold transformLoop
  rw [foldl_eq_of_forall_succ (fun n => (xfRounds ts cfg rk dir koor n (splitBlock b)).pair) ?start ?round]
  case start => rfl
  case round =>
    intro n
    rw [xfRounds_succ]
    cases dir with
    | encrypt => simp [keyIndex_encrypt, keyAt_of_lt]
    | decrypt => simp [keyIndex_decrypt, keyAt_eq_dite]
  rfl

/-! ### What the transform depends on (R158, R160, R163, R164) -/

/-- Two transforms are equal where each of their sixteen rounds has the same effect. -/
theorem XF_congr {ts : TableSet} {cfg cfg' : Cfg} {rk rk' : KeySchedule} {dir : Direction} {koor koor' : RoundKey}
    (round : ∀ n < 16, ∀ h : Halves,
      feistelRound ts cfg.fmode dir (keyAt rk koor (keyIndex cfg.kidx dir n)) h =
        feistelRound ts cfg'.fmode dir (keyAt rk' koor' (keyIndex cfg'.kidx dir n)) h) (b : Block) :
    XF ts cfg rk dir b koor = XF ts cfg' rk' dir b koor' := by
  have rounds : ∀ n ≤ 16, ∀ h : Halves, xfRounds ts cfg rk dir koor n h = xfRounds ts cfg' rk' dir koor' n h := by
    intro n hn h
    induction n with
    | zero => rfl
    | succ n ih => rw [xfRounds_succ, xfRounds_succ, ih (by omega), round n (by omega)]
  simp only [XF, rounds 16 le_rfl]

/-- Under Encrypt neither KIDX nor the draw has an effect (R160). -/
theorem XF_encrypt_congr (ts : TableSet) (fmode : FMode) (kidx kidx' : KIdx) (ks : KeySchedule) (b : Block)
    (koor koor' : RoundKey) : XF ts ⟨fmode, kidx⟩ ks .encrypt b koor = XF ts ⟨fmode, kidx'⟩ ks .encrypt b koor' :=
  XF_congr (fun n hn h => by simp only [keyIndex_encrypt, keyAt_of_lt _ _ n hn]) b

/-- The draw has no effect where every round key index is in range (R158). -/
theorem XF_koor_congr (ts : TableSet) {cfg : Cfg} {dir : Direction} (inRange : ¬ (dir = .decrypt ∧ cfg.kidx = .k16))
    (ks : KeySchedule) (b : Block) (koor koor' : RoundKey) : XF ts cfg ks dir b koor = XF ts cfg ks dir b koor' := by
  refine XF_congr (fun n hn h => ?_) b
  have index : keyIndex cfg.kidx dir n < 16 := by
    by_contra outOfRange
    obtain ⟨hk, hd, -⟩ := (keyIndex_outOfRange_iff hn cfg.kidx dir).mp (by omega)
    exact inRange ⟨hd, hk⟩
  rw [keyAt_of_lt _ _ _ index, keyAt_of_lt _ _ _ index]

/-- Under `F_REF` neither the schedule nor KIDX nor the draw has an effect (R163, R164). -/
theorem XF_fRef_congr (ts : TableSet) (kidx kidx' : KIdx) (ks ks' : KeySchedule) (dir : Direction) (b : Block)
    (koor koor' : RoundKey) : XF ts ⟨.fRef, kidx⟩ ks dir b koor = XF ts ⟨.fRef, kidx'⟩ ks' dir b koor' := by
  refine XF_congr (fun n hn h => ?_) b
  exact feistelRound_fRef ts dir _ _ h

/-! ### ENC and DEC (R160, R161) -/

/-- Every word of opcode 4 is an ENC of its data (R74, R160). -/
theorem decode_encWord (data : Data) : decode (0x4#4 ++ data) = .ok (.enc data) := by
  rw [decode_append]
  rfl

/-- Every word of opcode 5 is a DEC of its data (R74, R161). -/
theorem decode_decWord (data : Data) : decode (0x5#4 ++ data) = .ok (.dec data) := by
  rw [decode_append]
  rfl

/-- Settles O24. The draw and KIDX are without effect under Encrypt; the worked example is evaluated. -/
theorem encCommand : Obligations.EncCommand := by
  refine ⟨decode_encWord, ?keyed, fun s b hk => exec_of_keyless hk rfl, fun fmode kidx kidx' ks b =>
    XF_encrypt_congr Config.tables fmode kidx kidx' ks b, ?fRef, ?fSub⟩
  case keyed =>
    intro s b ks koor hrk
    rw [exec_enc_of_some hrk, XF_koor_congr Config.tables (by simp) ks b _ koor]
  case fRef | fSub => decide +kernel

/-- Settles O25. Under `K16` the draw is the next value of the free choice `Config.koor`; that it can matter is
seen on TFIX with the all-zero and the all-one draw (vector T8). -/
theorem decCommand : Obligations.DecCommand := by
  refine ⟨decode_decWord, ?k15, ?k16, fun s b hk => exec_of_keyless hk rfl, fun kidx kidx' ks b =>
    XF_fRef_congr Config.tables kidx kidx' ks ks .decrypt b, ?drawMatters, ?inverse, ?forward⟩
  case k15 =>
    intro s b ks koor hrk hk
    rw [exec_dec_of_some hrk, s.readOutOfRange_of_k15 hk, XF_koor_congr Config.tables (by simp [hk]) ks b _ koor]
  case k16 =>
    intro s b ks hrk hk
    refine ⟨Config.koor s.draws, s.draws + 1, ?_⟩
    rw [exec_dec_of_some hrk, s.readOutOfRange_of_k16 hk, Status.outOfRange_eq]
  case drawMatters =>
    exact ⟨tfix, KS tfix 0x12345678, 0xBB815994, 0x000000, 0xFFFFFF, by decide +kernel⟩
  case inverse | forward => decide +kernel

end Sys2Proof.Machine
end

section
/-!
The family of 44_control_commands.md: NOP, SETMODE, RDSTAT and RDKEY (rules R170 to R176).
-/

namespace Sys2Proof.Machine

/-! ### Words with data where none is admitted (R73, R195) -/

/-- NOP and RDSTAT admit no data (R170, R174). -/
theorem issueWord_of_nonzeroData {op : BitVec 4} (hop : op = 0x0 ∨ op = 0x6) (data : Data) (s : State)
    (h : data ≠ 0) : issueWord (op ++ data) s = .next s.afterIllegalCmd :=
  issueWord_of_illegal ((legalWord_append_eq_false_iff op data).mpr (.inr (.inl ⟨hop, h⟩))) s

/-- SETMODE admits two bits of data (R172). -/
theorem issueWord_setmode_of_highData (data : Data) (s : State) (h : data.extractLsb' 2 30 ≠ 0) :
    issueWord (0x1#4 ++ data) s = .next s.afterIllegalCmd :=
  issueWord_of_illegal ((legalWord_append_eq_false_iff _ data).mpr (.inr (.inr (.inl ⟨rfl, h⟩)))) s

/-- RDKEY admits four bits of data (R176). -/
theorem issueWord_rdkey_of_highData (data : Data) (s : State) (h : data.extractLsb' 4 28 ≠ 0) :
    issueWord (0x7#4 ++ data) s = .next s.afterIllegalCmd :=
  issueWord_of_illegal ((legalWord_append_eq_false_iff _ data).mpr (.inr (.inr (.inr ⟨rfl, h⟩)))) s

/-! ### NOP (R170) -/

theorem exec_nop (s : State) : exec .nop s = .next (s.answering 0) := rfl

/-- Settles O21. Opcode 0 admits the zero data alone. -/
theorem nopCommand : Obligations.NopCommand := ⟨rfl, exec_nop, issueWord_of_nonzeroData (.inl rfl)⟩

/-! ### RDSTAT (R174) -/

theorem exec_rdstat (s : State) : exec .rdstat s = .next (s.answering s.csr) := rfl

theorem FMode.bit_eq_ofBool (fmode : FMode) : fmode.bit = BitVec.ofBool (fmode == .fSub) := by cases fmode <;> rfl

theorem KIdx.bit_eq_ofBool (kidx : KIdx) : kidx.bit = BitVec.ofBool (kidx == .k16) := by cases kidx <;> rfl

/-- The layout of the status word: it is a function of six bits of the state, each of which reappears at its place
(R27, R174). -/
theorem State.csr_layout (s : State) :
    s.csr.getLsbD 0 = (s.cfg.fmode == .fSub) ∧ s.csr.getLsbD 1 = (s.cfg.kidx == .k16) ∧ s.csr.extractLsb' 2 6 = 0 ∧
      s.csr.getLsbD 8 = s.keyv ∧ s.csr.getLsbD 9 = s.status.oorf ∧ s.csr.getLsbD 10 = s.status.illf ∧
      s.csr.getLsbD 11 = s.status.nokeyf ∧ s.csr.extractLsb' 12 20 = 0 := by
  simp only [State.csr, FMode.bit_eq_ofBool, KIdx.bit_eq_ofBool]
  generalize (s.cfg.fmode == .fSub) = fmode, (s.cfg.kidx == .k16) = kidx, s.keyv = keyv, s.status.oorf = oorf,
    s.status.illf = illf, s.status.nokeyf = nokeyf
  revert fmode kidx keyv oorf illf nokeyf
  decide

/-- Settles O26. The layout is `State.csr_layout`; the two worked examples evaluate the status word after reset and after
a KEYGEN, which sets KEYV alone whatever its schedule is. -/
theorem rdstatCommand : Obligations.RdstatCommand := by
  refine ⟨rfl, exec_rdstat, State.csr_layout, issueWord_of_nonzeroData (.inr rfl), ?afterReset, ?afterKeygen⟩
  case afterReset => rfl
  case afterKeygen => exact ⟨_, exec_keygen State.reset 0x12345678, rfl⟩

/-! ### SETMODE (R172) -/

theorem exec_setmode (s : State) (fmode : FMode) (kidx : KIdx) :
    exec (.setmode fmode kidx) s = .next (State.answering { s with cfg := ⟨fmode, kidx⟩ } 0) := rfl

/-- A SETMODE word without high data carries FMODE in bit 0 and KIDX in bit 1 (R73, R172). -/
theorem decode_setmodeWord {data : Data} (h : data.extractLsb' 2 30 = 0) :
    decode (0x1#4 ++ data) = .ok (.setmode (.ofBit (data.getLsbD 0)) (.ofBit (data.getLsbD 1))) := by
  rw [decode_append]
  exact if_pos h

/-- Settles O22. The word 0x100000001 is SETMODE F_SUB, K15, and the status word shows the CFG it wrote. -/
theorem setmodeCommand : Obligations.SetmodeCommand := by
  refine ⟨fun data => decode_setmodeWord, exec_setmode, issueWord_setmode_of_highData, fun s => ?modeCorrected⟩
  have word : decode 0x100000001 = .ok (.setmode .fSub .k15) := rfl
  obtain ⟨fmode, kidx, -⟩ := State.csr_layout (State.answering { s with cfg := ⟨.fSub, .k15⟩ } 0)
  exact ⟨_, issueWord_of_ok word s, fmode, kidx⟩

/-! ### RDKEY (R176) -/

/-- An RDKEY word without high data asks for the index in its low four bits (R73, R176). -/
theorem decode_rdkeyWord {data : Data} (h : data.extractLsb' 4 28 = 0) :
    decode (0x7#4 ++ data) = .ok (.rdkey (data.extractLsb' 0 4).toFin) := by
  rw [decode_append]
  exact if_pos h

/-- Data without high bits is the value of its low four bits. -/
theorem toNat_lowData_of_highData {data : Data} (h : data.extractLsb' 4 28 = 0) :
    (data.extractLsb' 0 4).toNat = data.toNat := by
  have high : data.toNat / 16 % 2 ^ 28 = 0 := by
    simpa [Nat.shiftRight_eq_div_pow] using congrArg BitVec.toNat h
  have bound : data.toNat < 2 ^ 32 := data.isLt
  rw [BitVec.extractLsb'_toNat, Nat.shiftRight_zero]
  omega

/-- The data of an RDKEY response is eight zeros above the round key (R176). -/
theorem setWidth_roundKey (k : RoundKey) : k.setWidth 32 = (0 : BitVec 8) ++ k := BitVec.setWidth_eq_append (by decide)

/-- Settles O27. The schedule repeats itself from round 12 on because `shift 12 = shift 0` (R119); on TID the round keys
of the worked example are evaluated from the halves of the seed. -/
theorem rdkeyCommand : Obligations.RdkeyCommand := by
  refine ⟨?index, ?keyed, fun s idx hk => exec_of_keyless hk rfl, issueWord_rdkey_of_highData, ?afterKeygen, ?repeats,
    ?key0, ?key11⟩
  case index => exact fun data h => ⟨_, decode_rdkeyWord h, toNat_lowData_of_highData h⟩
  case keyed =>
    intro s idx ks hrk
    refine ⟨_, exec_rdkey_of_some hrk idx, ?low, ?high⟩
    case low => rw [setWidth_roundKey, BitVec.extractLsb'_append_eq_right]
    case high => rw [setWidth_roundKey, BitVec.extractLsb'_append_eq_left]
  case afterKeygen =>
    intro s seed idx
    exact ⟨_, _, exec_keygen s seed, exec_rdkey_of_some rfl idx, by simp⟩
  case repeats =>
    intro seed
    have amount : shift 12 = shift 0 := by decide
    rw [KS_getElem, KS_getElem, roundValue_congr _ amount]
  case key0 | key11 =>
    rw [KS_tid_getElem, loadKeyRegs_tid]
    decide

end Sys2Proof.Machine
end

section
/-!
The family of 60_exceptions.md: the commands refused without a key schedule (rule R196).
-/

namespace Sys2Proof

/-- The commands that read `RK` are ENC, DEC and RDKEY (R36, R196). -/
theorem Instr.readsKeys_iff (i : Instr) :
    i.readsKeys = true ↔ (∃ b, i = .enc b) ∨ (∃ b, i = .dec b) ∨ ∃ k, i = .rdkey k := by
  cases i <;> simp [Instr.readsKeys]

end Sys2Proof

namespace Sys2Proof.Machine

/-- Settles O28. The three commands are those that read `RK`, and each of them is refused in a keyless state. -/
theorem keylessCommandsAreRefused : Obligations.KeylessCommandsAreRefused :=
  fun _ i keyless listed => exec_of_keyless keyless (i.readsKeys_iff.mpr listed)

end Sys2Proof.Machine
end

section
/-!
The family of 70_reset_and_hazards.md: an edge with `rst` high gives the reset state, and nothing else clears KEYV or a
sticky flag (rules R221, R222).
-/

namespace Sys2Proof.Machine

@[simp] theorem State.responsePort_keyv (s : State) (e : Edge) : (s.responsePort e).keyv = s.keyv :=
  congrArg Option.isSome (s.responsePort_rk e)

/-- At an edge with `rst` high the step is the reset, whatever the other pins are (R220, R221). -/
theorem step_of_rst {s : State} {e : Edge} {rest : List Edge} (hs : s.edges = e :: rest) (hr : e.rst = true) :
    step s = .next { s with edges := rest }.takeReset := by
  simp [step_of_cons hs, clockEdge, hr]

/-- Everything a step can do at an edge with `rst` low: the response port acts, and then at most one word is issued (R71). -/
theorem step_cases_of_not_rst {s t : State} {e : Edge} {rest : List Edge} (hs : s.edges = e :: rest) (hr : e.rst = false)
    (h : step s = .next t) :
    t = { s with edges := rest }.responsePort e ∨
      issueWord e.cmdWord ({ s with edges := rest }.responsePort e) = .next t := by
  rw [step_of_cons hs] at h
  obtain ⟨high, -⟩ | ⟨-, -, issued⟩ | ⟨-, -, idle⟩ := clockEdge_cases e { s with edges := rest }
  · simp [hr] at high
  · exact .inr (issued ▸ h)
  · exact .inl (Host.Outcome.next.inj (h.symm.trans idle))

/-- No issued word, legal or not, clears a sticky flag (R33). -/
theorem issueWord_keeps_flags {w : CmdWord} {s t : State} (h : issueWord w s = .next t) :
    (s.status.oorf = true → t.status.oorf = true) ∧ (s.status.illf = true → t.status.illf = true) ∧
      (s.status.nokeyf = true → t.status.nokeyf = true) := by
  obtain ⟨oorf, illf, nokeyf, -⟩ := flagsAreSetByTheListedCommands w s t h
  exact ⟨fun set => oorf.mpr (.inl set), fun set => illf.mpr (.inl set), fun set => nokeyf.mpr (.inl set)⟩

/-- Settles O12. A reset leaves a keyless state with nothing owed; at any other edge the response port touches neither KEYV
nor the flags, and an issued word clears none of them. -/
theorem resetClearsTheCoreAndNothingElseDoes : Obligations.ResetClearsTheCoreAndNothingElseDoes := by
  refine ⟨fun s e rest hs hr => ?reset, fun s t e rest hs hr h => ?other⟩
  case reset =>
    exact ⟨_, step_of_rst hs hr, rfl, rfl, rfl, rfl, rfl, fun _ => rfl, exec_enc_of_none rfl, exec_dec_of_none rfl,
      exec_rdkey_of_none rfl⟩
  case other =>
    obtain rfl | issued := step_cases_of_not_rst hs hr h
    · simp [State.keyv]
    · have keyv := issueWord_keeps_keyv issued
      have flags := issueWord_keeps_flags issued
      rw [State.responsePort_keyv] at keyv
      rw [State.responsePort_status] at flags
      exact ⟨keyv, flags⟩

end Sys2Proof.Machine
end

section
/-!
The family of 30_encoding.md: decoding and encoding undo each other, and the opcode map (rules R72 to R79).
-/

namespace Sys2Proof.Machine

/-! ### The bits of CFG in a word (R28, R73) -/

@[simp] theorem FMode.bit_ofBit (b : Bool) : (FMode.ofBit b).bit = BitVec.ofBool b := by cases b <;> rfl

@[simp] theorem KIdx.bit_ofBit (b : Bool) : (KIdx.ofBit b).bit = BitVec.ofBool b := by cases b <;> rfl

@[simp] theorem FMode.ofBit_beq_fSub (fmode : FMode) : FMode.ofBit (fmode == .fSub) = fmode := by cases fmode <;> rfl

@[simp] theorem KIdx.ofBit_beq_k16 (kidx : KIdx) : KIdx.ofBit (kidx == .k16) = kidx := by cases kidx <;> rfl

/-- The low two bits of a value, put together again. -/
theorem ofBool_append_ofBool (data : Data) :
    BitVec.ofBool (data.getLsbD 1) ++ BitVec.ofBool (data.getLsbD 0) = data.extractLsb' 0 2 := by
  refine BitVec.eq_of_getLsbD_eq fun i hi => ?_
  rw [BitVec.getLsbD_append]
  match i with
  | 0 => simp
  | 1 => simp

/-- A value whose bits from `k` up are 0 is the value of its low `k` bits. -/
theorem setWidth_extractLsb'_of_high_eq_zero {w k len : Nat} (h : k + len = w) {v : BitVec w}
    (high : v.extractLsb' k len = 0) : (v.extractLsb' 0 k).setWidth w = v := by
  ext i hi
  by_cases low : i < k
  · simp [low, hi]
  · have bit : v[i] = false := by
      simpa [show i - k < len by omega, show k + (i - k) = i by omega, hi] using congrArg (·.getLsbD (i - k)) high
    simp [low, bit]

/-! ### Decoding and encoding (R73, R78) -/

/-- Settles O1. Each command's word decodes by its fields; SETMODE and RDKEY have four and sixteen words. -/
theorem decodeInvertsEncode : Obligations.DecodeInvertsEncode := by
  intro i
  cases i with
  | nop | rdstat => rfl
  | setmode fmode kidx => cases fmode <;> cases kidx <;> rfl
  | keygen seed => exact decode_keygenWord seed
  | enc block => exact decode_encWord block
  | dec block => exact decode_decWord block
  | rdkey idx => revert idx; decide

/-- Settles O2. A legal word is its opcode above its data, and data with must-be-zero bits is its operand bits alone. -/
theorem encodeInvertsDecode : Obligations.EncodeInvertsDecode := by
  intro w i h
  rw [← opField_append_dataField w]
  obtain ⟨hop, hd, rfl⟩ | ⟨hop, high, rfl⟩ | ⟨hop, rfl⟩ | ⟨hop, rfl⟩ | ⟨hop, rfl⟩ | ⟨hop, hd, rfl⟩ | ⟨hop, high, rfl⟩ :=
    (decodeFields_eq_ok_iff _ _ _).mp h
  all_goals rw [hop]
  · rw [hd]
    rfl
  · rw [encode, KIdx.bit_ofBit, FMode.bit_ofBit, ofBool_append_ofBool, setWidth_extractLsb'_of_high_eq_zero rfl high]
  · rfl
  · rfl
  · rfl
  · rw [hd]
    rfl
  · exact congrArg (0x7#4 ++ ·) (setWidth_extractLsb'_of_high_eq_zero (w := 32) rfl high)

/-! ### The opcode map (R74) -/

/-- The word of every command selects the row of its mnemonic. -/
theorem encode_selects_row (i : Instr) : Laws.EncodesInRow.Statement i :=
  match i with
  | .nop => Laws.EncodesInRow.nop
  | .setmode fmode kidx => Laws.EncodesInRow.setmode fmode kidx
  | .keygen seed => Laws.EncodesInRow.keygen seed
  | .enc block => Laws.EncodesInRow.enc block
  | .dec block => Laws.EncodesInRow.dec block
  | .rdstat => Laws.EncodesInRow.rdstat
  | .rdkey idx => Laws.EncodesInRow.rdkey idx

/-- Every row fixes all four bits of the opcode. -/
theorem opField_of_selects {r : OpcodeRow} (hr : r ∈ opcodeMap) {w : CmdWord} (h : r.selects w = true) :
    opField w = opField r.pattern := by
  have fixed : ∀ r ∈ opcodeMap, opField r.mask = BitVec.allOnes 4 := by decide
  have masked : w &&& r.mask = r.pattern := beq_iff_eq.mp h
  rw [← masked, opField, opField, BitVec.extractLsb'_and, ← opField, ← opField, fixed r hr, BitVec.and_allOnes]

/-- Settles O3. A decoded word is the word of its command, which selects that command's row; and rows differ in their
opcodes. -/
theorem decoderFollowsTheOpcodeMap : Obligations.DecoderFollowsTheOpcodeMap := by
  refine ⟨exists_decode_iff_legalWord, fun w i h => ?row, fun w r hr r' hr' h h' => ?unique⟩
  case row =>
    rw [← encodeInvertsDecode w i h]
    exact encode_selects_row i
  case unique =>
    have distinct : ∀ r ∈ opcodeMap, ∀ r' ∈ opcodeMap, opField r.pattern = opField r'.pattern → r = r' := by decide
    exact distinct r hr r' hr' ((opField_of_selects hr h).symm.trans (opField_of_selects hr' h'))

/-- Settles O5. Each word is evaluated. -/
theorem specWordsDecodeToTheirCommands : Obligations.SpecWordsDecodeToTheirCommands := by
  unfold Obligations.SpecWordsDecodeToTheirCommands
  decide

/-- Settles O6. Each line is evaluated. -/
theorem syntaxLinesWriteTheirWords : Obligations.SyntaxLinesWriteTheirWords := by
  unfold Obligations.SyntaxLinesWriteTheirWords
  decide +kernel

/-- Settles O32. Bits 0 and 1 of the status word are FMODE and KIDX, and the others are cut off. -/
theorem statusWordWritesBackWithSetmode : Obligations.StatusWordWritesBackWithSetmode := by
  intro s
  obtain ⟨fmode, kidx, -⟩ := s.csr_layout
  have high : (s.csr &&& 0b11).extractLsb' 2 30 = 0 := by
    rw [BitVec.extractLsb'_and]
    exact BitVec.and_zero
  rw [decode_setmodeWord high, BitVec.getLsbD_and, BitVec.getLsbD_and, fmode, kidx]
  simp

end Sys2Proof.Machine
end

section
/-!
The family of 30_encoding.md and 10_state.md, the commands on the state: each answers once, writes only its own state and
reads only the architectural state (rules R29, R35, R65, R76, R77).
-/

namespace Sys2Proof.Machine

@[simp] theorem State.answering_cfg (s : State) (d : Data) : (s.answering d).cfg = s.cfg := rfl
@[simp] theorem State.answering_rk (s : State) (d : Data) : (s.answering d).rk = s.rk := rfl
@[simp] theorem State.answering_draws (s : State) (d : Data) : (s.answering d).draws = s.draws := rfl
@[simp] theorem State.answering_held (s : State) (d : Data) : (s.answering d).held = s.held := rfl
@[simp] theorem State.answering_edges (s : State) (d : Data) : (s.answering d).edges = s.edges := rfl
@[simp] theorem State.answering_delivered (s : State) (d : Data) : (s.answering d).delivered = s.delivered := rfl
@[simp] theorem State.afterNoKey_cfg (s : State) : s.afterNoKey.cfg = s.cfg := rfl
@[simp] theorem State.afterNoKey_rk (s : State) : s.afterNoKey.rk = s.rk := rfl
@[simp] theorem State.afterNoKey_draws (s : State) : s.afterNoKey.draws = s.draws := rfl
@[simp] theorem State.afterNoKey_held (s : State) : s.afterNoKey.held = s.held := rfl
@[simp] theorem State.afterNoKey_edges (s : State) : s.afterNoKey.edges = s.edges := rfl
@[simp] theorem State.afterNoKey_delivered (s : State) : s.afterNoKey.delivered = s.delivered := rfl
@[simp] theorem State.afterIllegalCmd_rk (s : State) : s.afterIllegalCmd.rk = s.rk := rfl
@[simp] theorem State.afterIllegalCmd_held (s : State) : s.afterIllegalCmd.held = s.held := rfl
@[simp] theorem State.afterIllegalCmd_edges (s : State) : s.afterIllegalCmd.edges = s.edges := rfl
@[simp] theorem State.afterIllegalCmd_delivered (s : State) : s.afterIllegalCmd.delivered = s.delivered := rfl

/-! ### The write of a command, field by field (R29, R35) -/

@[simp] theorem State.written_held (s : State) (i : Instr) : (s.written i).held = s.held := by
  cases i <;> simp [State.written]

@[simp] theorem State.written_edges (s : State) (i : Instr) : (s.written i).edges = s.edges := by
  cases i <;> simp [State.written]

@[simp] theorem State.written_delivered (s : State) (i : Instr) : (s.written i).delivered = s.delivered := by
  cases i <;> simp [State.written]

/-- The only value a command gives `RK` is a schedule (R35). -/
theorem State.written_rk (s : State) (i : Instr) :
    (s.written i).rk = s.rk ∨ ∃ seed, i = .keygen seed ∧ (s.written i).rk = some (KS Config.tables seed) := by
  cases i <;> simp [State.written]

theorem State.written_cfg_of_not_setmode (s : State) {i : Instr} (h : ∀ f k, i ≠ .setmode f k) :
    (s.written i).cfg = s.cfg := by
  cases i with
  | setmode f k => exact absurd rfl (h f k)
  | nop | keygen | enc | dec | rdstat | rdkey => simp [State.written]

theorem State.written_status_of_not_dec (s : State) {i : Instr} (h : ¬ ∃ b, i = .dec b) :
    (s.written i).status = s.status := by
  cases i with
  | dec b => exact absurd ⟨b, rfl⟩ h
  | nop | setmode | keygen | enc | rdstat | rdkey => simp [State.written]

theorem State.written_draws_of_not_dec_k16 (s : State) {i : Instr} (h : ¬ ((∃ b, i = .dec b) ∧ s.cfg.kidx = .k16)) :
    (s.written i).draws = s.draws := by
  cases i with
  | dec b =>
    cases hk : s.cfg.kidx with
    | k15 => simp [State.written, s.readOutOfRange_of_k15 hk]
    | k16 => exact absurd ⟨⟨b, rfl⟩, hk⟩ h
  | nop | setmode | keygen | enc | rdstat | rdkey => simp [State.written]

/-- Settles O31. A refused command writes NOKEYF alone; any other makes its own write, which is read off field by field. -/
theorem eachCommandWritesOnlyItsOwnState : Obligations.EachCommandWritesOnlyItsOwnState := by
  intro i s t h
  obtain ⟨reads, -, rfl⟩ | ⟨admitted, d, rfl⟩ := exec_cases h
  · have listed := i.readsKeys_iff.mp reads
    simp only [State.afterNoKey_rk, State.afterNoKey_cfg, State.afterNoKey_draws, State.afterNoKey_status]
    tauto
  refine ⟨fun notKeygen => ?rk, s.written_cfg_of_not_setmode, fun notDraw => ?draws, s.written_illf i,
    fun _ notDec _ => s.written_status_of_not_dec notDec⟩
  case rk =>
    obtain kept | ⟨seed, rfl, -⟩ := s.written_rk i
    · exact kept
    · exact absurd rfl (notKeygen seed)
  case draws =>
    refine s.written_draws_of_not_dec_k16 fun ⟨⟨b, hb⟩, hk⟩ => notDraw ⟨⟨b, hb⟩, hk, admitted ?_⟩
    rw [hb]
    rfl

/-! ### Responses (R65, R76, R77) -/

theorem rspData_word (r : Response) : rspData r.word = r.data := BitVec.extractLsb'_append_eq_right

theorem rspCode_word (r : Response) : rspCode r.word = r.code.bits := BitVec.extractLsb'_append_eq_left

/-- The code 0b11 is never produced (R77). -/
theorem RspCode.bits_ne_three (c : RspCode) : c.bits ≠ 0b11 := by cases c <;> decide

/-- The word of a proper response is a word the core may produce. -/
theorem properWord_word {r : Response} (h : r.proper) : properWord r.word := by
  rw [properWord, rspData_word, rspCode_word]
  refine ⟨r.code.bits_ne_three, fun notZero => h fun ok => notZero ?_⟩
  rw [ok]
  rfl

/-- Every command gives a next state (R65, R193). -/
theorem exec_total (i : Instr) (s : State) : ∃ t, exec i s = .next t := by
  by_cases refused : i.readsKeys = true ∧ s.keyv = false
  · exact ⟨_, exec_of_keyless refused.2 refused.1⟩
  · obtain ⟨d, hd⟩ := exec_of_admitted (s := s) (i := i) (by simpa using refused)
    exact ⟨_, hd⟩

/-- Every issued word gives a next state (R65, R193). -/
theorem issueWord_total (w : CmdWord) (s : State) : ∃ t, issueWord w s = .next t := by
  cases hd : decode w with
  | error x => exact ⟨_, issueWord_of_error hd s⟩
  | ok i =>
    rw [issueWord_of_ok hd]
    exact exec_total i s

/-- All that a command does to the ports: one response more, the last in the order (R65). -/
theorem exec_ports {i : Instr} {s t : State} (h : exec i s = .next t) :
    ∃ r : Response, r.proper ∧ t.owed = s.owed ++ [r] ∧ t.held = s.held ∧ t.edges = s.edges ∧
      t.delivered = s.delivered := by
  obtain ⟨-, -, rfl⟩ | ⟨-, d, rfl⟩ := exec_cases h
  · exact ⟨⟨.noKey, 0⟩, fun _ => rfl, by simp⟩
  · exact ⟨⟨.ok, d⟩, fun notOk => absurd rfl notOk, by simp⟩

/-- All that an issued word does to the ports: one response more, the last in the order (R65, R195). -/
theorem issueWord_ports {w : CmdWord} {s t : State} (h : issueWord w s = .next t) :
    ∃ r : Response, r.proper ∧ t.owed = s.owed ++ [r] ∧ t.held = s.held ∧ t.edges = s.edges ∧
      t.delivered = s.delivered := by
  obtain ⟨-, rfl⟩ | ⟨i, -, -, hx⟩ := issueWord_cases h
  · exact ⟨⟨.illegalCmd, 0⟩, fun _ => rfl, by simp⟩
  · exact exec_ports hx

/-- Settles O14. The effect of a command on the ports is `exec_ports`; a response word is a concatenation. -/
theorem everyCommandAnswersExactlyOnce : Obligations.EveryCommandAnswersExactlyOnce := by
  refine ⟨fun i s => ?answer, fun r => ⟨rspData_word r, ?ok, ?illegalCmd, ?noKey⟩⟩
  case answer =>
    obtain ⟨t, ht⟩ := exec_total i s
    obtain ⟨r, proper, owed, ports⟩ := exec_ports ht
    exact ⟨t, r, ht, owed, proper, ports⟩
  case ok | illegalCmd | noKey =>
    intro hr
    rw [rspCode_word, hr]
    rfl

/-! ### What a command depends on (R20, R64) -/

theorem State.sameCore_refl (s : State) : s.sameCore s := ⟨rfl, rfl, rfl, rfl⟩

theorem State.sameCore.trans {s t u : State} (h : s.sameCore t) (h' : t.sameCore u) : s.sameCore u := by
  obtain ⟨cfg, status, rk, draws⟩ := h
  obtain ⟨cfg', status', rk', draws'⟩ := h'
  exact ⟨cfg.trans cfg', status.trans status', rk.trans rk', draws.trans draws'⟩

/-- A command reads the architectural state and the draws only: from the same core it gives the same core and the same
response. -/
theorem exec_of_sameCore {s u : State} (h : s.sameCore u) (i : Instr) :
    ∃ s' u' r, exec i s = .next s' ∧ exec i u = .next u' ∧ s'.sameCore u' ∧ s'.owed = s.owed ++ [r] ∧
      u'.owed = u.owed ++ [r] := by
  obtain ⟨cfg, status, rk, owed, held, edges, delivered, draws⟩ := s
  obtain ⟨_, _, _, owed', held', edges', delivered', _⟩ := u
  obtain ⟨rfl, rfl, rfl, rfl⟩ := h
  cases i with
  | nop | setmode | keygen | rdstat => exact ⟨_, _, _, rfl, rfl, ⟨rfl, rfl, rfl, rfl⟩, rfl, rfl⟩
  | enc | rdkey => cases rk <;> exact ⟨_, _, _, rfl, rfl, ⟨rfl, rfl, rfl, rfl⟩, rfl, rfl⟩
  | dec b =>
    cases rk with
    | none => exact ⟨_, _, _, rfl, rfl, ⟨rfl, rfl, rfl, rfl⟩, rfl, rfl⟩
    | some ks =>
      obtain ⟨fmode, kidx⟩ := cfg
      cases kidx <;> exact ⟨_, _, _, rfl, rfl, ⟨rfl, rfl, rfl, rfl⟩, rfl, rfl⟩

/-- An issued word reads the architectural state and the draws only. -/
theorem issueWord_of_sameCore {s u : State} (h : s.sameCore u) (w : CmdWord) :
    ∃ s' u' r, issueWord w s = .next s' ∧ issueWord w u = .next u' ∧ s'.sameCore u' ∧ s'.owed = s.owed ++ [r] ∧
      u'.owed = u.owed ++ [r] := by
  cases hd : decode w with
  | error x =>
    obtain ⟨cfg, status, rk, draws⟩ := h
    exact ⟨_, _, _, issueWord_of_error hd s, issueWord_of_error hd u, ⟨cfg, by simp [status], rk, draws⟩, rfl, rfl⟩
  | ok i =>
    rw [issueWord_of_ok hd, issueWord_of_ok hd]
    exact exec_of_sameCore h i

end Sys2Proof.Machine
end

section
/-!
The family of 20_memory.md, 30_encoding.md and 60_exceptions.md, one step: the response port and the command port at an
edge, and the invariant every step keeps (rules R64, R65, R71, R201, R211, R221).
-/

namespace Sys2Proof.Machine

/-! ### The response port (R71) -/

theorem State.owed_ne_nil_of_rspValid {s : State} {e : Edge} (h : s.rspValid e = true) : s.owed ≠ [] := by
  intro none
  simp [State.rspValid, none] at h

/-- A held response is presented at every edge (R71). -/
theorem State.rspValid_of_held {s : State} (owed : s.owed ≠ []) (held : s.held = true) (e : Edge) :
    s.rspValid e = true := by
  simp [State.rspValid, owed, held]

theorem State.responsePort_of_not_valid {s : State} {e : Edge} (h : s.rspValid e = false) : s.responsePort e = s := by
  obtain same | ⟨_, _, -, valid, -⟩ | ⟨_, _, -, valid, -⟩ := s.responsePort_cases e
  · exact same
  all_goals simp [h] at valid

theorem State.responsePort_of_untaken {s : State} {e : Edge} (hv : s.rspValid e = true) (hr : e.rspReady = false) :
    s.responsePort e = { s with held := true } := by
  obtain ⟨r, rest, owed⟩ := List.exists_cons_of_ne_nil (State.owed_ne_nil_of_rspValid hv)
  simp [State.responsePort, owed, hv, hr]

theorem State.responsePort_of_taken {s : State} {e : Edge} (hv : s.rspValid e = true) (hr : e.rspReady = true)
    {r : Response} {later : List Response} (owed : s.owed = r :: later) :
    s.responsePort e = { s with owed := later, held := false, delivered := s.delivered ++ [r.word] } := by
  simp [State.responsePort, owed, hv, hr]

/-- The response port does not read the edges to come. -/
theorem State.responsePort_withEdges (s : State) (rest : List Edge) (e : Edge) :
    { s with edges := rest }.responsePort e = { s.responsePort e with edges := rest } := by
  obtain ⟨cfg, status, rk, owed, held, edges, delivered, draws⟩ := s
  cases owed with
  | nil => rfl
  | cons r later =>
    simp only [State.responsePort, State.rspValid]
    split
    · split <;> rfl
    · rfl

theorem State.responsePort_sameCore (s : State) (e : Edge) : (s.responsePort e).sameCore s := by
  simp [State.sameCore]

/-! ### One edge (R71, R220) -/

theorem clockEdge_of_issues {e : Edge} (h : e.issues = true) (s : State) :
    clockEdge e s = issueWord e.cmdWord (s.responsePort e) := by
  simp [clockEdge, issues_rst h, h]

theorem clockEdge_of_idle {e : Edge} (hr : e.rst = false) (hi : e.issues = false) (s : State) :
    clockEdge e s = .next (s.responsePort e) := by
  simp [clockEdge, hr, hi]

/-- Settles O7. The edge is one at which a word is issued. -/
theorem stepRunsTheDecodedCommand : Obligations.StepRunsTheDecodedCommand := by
  intro s e rest i hs hi hd
  rw [step_of_cons hs, clockEdge_of_issues hi, issueWord_of_ok hd]

/-- Settles O9. The edge is one at which an illegal word is issued, and such a word is refused in every state. -/
theorem stepRefusesAnIllegalWordFirst : Obligations.StepRefusesAnIllegalWordFirst := by
  intro s e rest hs hi illegal
  rw [step_of_cons hs, clockEdge_of_issues hi, issueWord_of_illegal illegal]

/-- The response port is idle at an edge that only offers a word: nothing becomes due, and what is held stays held. -/
theorem State.responsePort_offering (s : State) (w : CmdWord) : s.responsePort (Edge.offering w) = s := by
  cases hv : s.rspValid (Edge.offering w) with
  | false => exact State.responsePort_of_not_valid hv
  | true =>
    have held : s.held = true := by simpa [Edge.offering] using (Bool.and_eq_true_iff.mp hv).2
    rw [State.responsePort_of_untaken hv rfl, ← held]

/-- A table word stands for a command exactly if it is a 36-bit word that decodes to it (R72). -/
theorem decodeTableWord_eq_some_iff (nbits w : Nat) (i : Instr) :
    decodeTableWord nbits w = some i ↔ w < 2 ^ 36 ∧ decode (BitVec.ofNat 36 w) = .ok i := by
  unfold decodeTableWord
  cases decode (BitVec.ofNat 36 w) <;> simp [Except.toOption]

/-- Settles O8. The offered word is issued at the edge put in front, at which the response port is idle. -/
theorem offeredTableWordRunsNext : Obligations.OfferedTableWordRunsNext := by
  intro s nbits w i h
  obtain ⟨bound, hd⟩ := (decodeTableWord_eq_some_iff nbits w i).mp h
  rw [State.withFetchWord, if_pos bound, step_nextEdge, clockEdge_of_issues rfl, State.responsePort_offering]
  exact issueWord_of_ok hd s

/-- Settles O10. Without an issued word the edge is the response port's alone. -/
theorem idleStepKeepsTheCore : Obligations.IdleStepKeepsTheCore := by
  refine ⟨fun s => step_of_nil, fun s e rest hs hr hi => 
    ⟨{ s with edges := rest }.responsePort e, ?step, ?core, ?edges, ?answers⟩⟩
  case step => rw [step_of_cons hs, clockEdge_of_idle hr hi]
  case core => exact State.responsePort_sameCore _ e
  case edges => exact State.responsePort_edges _ e
  case answers => exact State.responsePort_answers _ e

/-- Settles O11. The reset state is written out field by field. -/
theorem resetStateIsAsListed : Obligations.ResetStateIsAsListed :=
  ⟨rfl, rfl, rfl, rfl, rfl, rfl, fun _ => rfl⟩

/-- Every edge gives a next state (R65, R193). -/
theorem clockEdge_total (e : Edge) (s : State) : ∃ t, clockEdge e s = .next t := by
  obtain ⟨-, h⟩ | ⟨-, -, h⟩ | ⟨-, -, h⟩ := clockEdge_cases e s
  · exact ⟨_, h⟩
  · rw [h]
    exact issueWord_total _ _
  · exact ⟨_, h⟩

/-- Settles O13. A step is an edge, or nothing. -/
theorem everyStepContinues : Obligations.EveryStepContinues := by
  intro s
  cases hs : s.edges with
  | nil => exact ⟨s, step_of_nil hs⟩
  | cons e rest =>
    rw [step_of_cons hs]
    exact clockEdge_total e _

/-! ### The response port across a step (R65, R71) -/

/-- After the response port, an edge without reset does no more to the ports than to append a response. -/
theorem step_ports_of_not_rst {s t : State} {e : Edge} {rest : List Edge} (hs : s.edges = e :: rest)
    (hr : e.rst = false) (h : step s = .next t) :
    ∃ added, t.owed = (s.responsePort e).owed ++ added ∧ t.held = (s.responsePort e).held ∧
      t.delivered = (s.responsePort e).delivered := by
  have done := step_cases_of_not_rst hs hr h
  rw [State.responsePort_withEdges] at done
  obtain rfl | issued := done
  · exact ⟨[], by simp, rfl, rfl⟩
  · obtain ⟨r, -, owed, held, -, delivered⟩ := issueWord_ports issued
    exact ⟨[r], owed, held, delivered⟩

/-- Settles O15. The response port holds, delivers or does nothing, and an issued word only appends to what is owed. -/
theorem untakenResponseIsHeld : Obligations.UntakenResponseIsHeld := by
  refine ⟨fun s t e rest hs hr hv hready h => ?held, fun s t e rest hs hr hv hready h => ?taken,
    fun s t e rest hs quiet h => ?quiet⟩
  case held =>
    obtain ⟨added, owed, held, delivered⟩ := step_ports_of_not_rst hs hr h
    rw [State.responsePort_of_untaken hv hready] at owed held delivered
    obtain ⟨r, later, hso⟩ := List.exists_cons_of_ne_nil (State.owed_ne_nil_of_rspValid hv)
    refine ⟨delivered, fun e' => ?_⟩
    have valid : t.rspValid e' = true := State.rspValid_of_held (by simp [owed, hso]) held e'
    refine ⟨valid, ?_⟩
    rw [State.rspWord_of_valid valid, State.rspWord_of_valid hv, owed]
    simp [hso]
  case taken =>
    obtain ⟨added, owed, -, delivered⟩ := step_ports_of_not_rst hs hr h
    obtain ⟨r, later, hso⟩ := List.exists_cons_of_ne_nil (State.owed_ne_nil_of_rspValid hv)
    rw [State.responsePort_of_taken hv hready hso] at owed delivered
    exact ⟨r, later, hso, by simp [State.rspWord_of_valid hv, hso], delivered, ⟨added, owed.symm⟩⟩
  case quiet =>
    cases hr : e.rst with
    | true =>
      obtain rfl := Host.Outcome.next.inj ((step_of_rst hs hr).symm.trans h)
      exact ⟨rfl, nofun⟩
    | false =>
      obtain ⟨added, owed, -, delivered⟩ := step_ports_of_not_rst hs hr h
      rw [State.responsePort_of_not_valid (by simpa [hr] using quiet)] at owed delivered
      exact ⟨delivered, fun _ => ⟨added, owed.symm⟩⟩

/-! ### The invariant (R35, R71, R76, R77) -/

/-- Settles O19. After reset nothing is owed, delivered or held, and `RK` holds no value. -/
theorem resetHasTheInvariant : Obligations.ResetHasTheInvariant := by
  simp [Obligations.ResetHasTheInvariant, State.Inv, State.reset]

theorem State.Inv.takeReset {s : State} (h : s.Inv) : s.takeReset.Inv := by
  obtain ⟨-, -, delivered, -⟩ := h
  exact ⟨nofun, nofun, delivered, nofun⟩

/-- The response port holds only what is owed, and delivers the word of a proper response. -/
theorem State.Inv.responsePort {s : State} (h : s.Inv) (e : Edge) : (s.responsePort e).Inv := by
  obtain ⟨rk, owed, delivered, held⟩ := h
  obtain same | ⟨r, rest, ho, -, -, port⟩ | ⟨r, rest, ho, -, -, port⟩ := s.responsePort_cases e
  · rw [same]
    exact ⟨rk, owed, delivered, held⟩
  · rw [port]
    exact ⟨rk, owed, delivered, fun _ => by simp [ho]⟩
  · rw [port]
    rw [ho, List.forall_mem_cons] at owed
    refine ⟨rk, owed.2, fun w hw => ?_, nofun⟩
    obtain old | new := List.mem_append.mp hw
    · exact delivered w old
    · rw [List.mem_singleton.mp new]
      exact properWord_word owed.1

/-- The only value an issued word gives `RK` is a schedule (R35). -/
theorem issueWord_rk {w : CmdWord} {s t : State} (h : issueWord w s = .next t) :
    t.rk = s.rk ∨ ∃ seed, t.rk = some (KS Config.tables seed) := by
  obtain ⟨-, rfl⟩ | ⟨i, -, -, hx⟩ := issueWord_cases h
  · exact .inl rfl
  obtain ⟨-, -, rfl⟩ | ⟨-, d, rfl⟩ := exec_cases hx
  · exact .inl rfl
  · exact (s.written_rk i).imp_right fun ⟨seed, _, rk⟩ => ⟨seed, rk⟩

/-- An issued word writes a schedule or leaves `RK`, and answers with a proper response. -/
theorem State.Inv.issueWord {w : CmdWord} {s t : State} (h : s.Inv) (issued : issueWord w s = .next t) : t.Inv := by
  obtain ⟨rk, owed, delivered, held⟩ := h
  obtain ⟨r, proper, towed, theld, -, tdelivered⟩ := issueWord_ports issued
  refine ⟨fun ks hks => ?rk, fun x hx => ?owed, by rwa [tdelivered], fun _ => by simp [towed]⟩
  case rk =>
    obtain kept | ⟨seed, written⟩ := issueWord_rk issued
    · exact rk ks (kept ▸ hks)
    · exact ⟨seed, Option.some.inj (hks.symm.trans written)⟩
  case owed =>
    rw [towed] at hx
    obtain old | new := List.mem_append.mp hx
    · exact owed x old
    · rwa [List.mem_singleton.mp new]

/-- Settles O20. Reset, the response port and an issued word each keep the invariant, which does not read the edges to
come. -/
theorem stepKeepsTheInvariant : Obligations.StepKeepsTheInvariant := by
  intro s t inv h
  cases hs : s.edges with
  | nil => exact Host.Outcome.next.inj ((step_of_nil hs).symm.trans h) ▸ inv
  | cons e rest =>
    have before : State.Inv { s with edges := rest } := inv
    cases hr : e.rst with
    | true => exact Host.Outcome.next.inj ((step_of_rst hs hr).symm.trans h) ▸ before.takeReset
    | false =>
      obtain rfl | issued := step_cases_of_not_rst hs hr h
      · exact before.responsePort e
      · exact (before.responsePort e).issueWord issued

end Sys2Proof.Machine
end

section
/-!
The family of 20_memory.md and 70_reset_and_hazards.md: rows of edges (rules R64, R65, R71, R231, R242).
-/

namespace Sys2Proof.Machine

/-! ### The words of a row of edges (R71) -/

theorem issuedWords_cons_of_issues {e : Edge} (h : e.issues = true) (es : List Edge) :
    issuedWords (e :: es) = e.cmdWord :: issuedWords es := by
  simp [issuedWords, h]

theorem issuedWords_cons_of_idle {e : Edge} (h : e.issues = false) (es : List Edge) :
    issuedWords (e :: es) = issuedWords es := by
  simp [issuedWords, h]

/-- Settles O16. The waiting word is offered again at the next edge, where it is issued or waits on. -/
theorem waitingWordIsTheNextIssued : Obligations.WaitingWordIsTheNextIssued := by
  intro e es
  induction es generalizing e with
  | nil => exact fun _ _ _ w ws h => nomatch h
  | cons e' es ih =>
    intro kept waiting noReset w ws issued
    rw [List.forall_mem_cons] at noReset
    obtain ⟨rst, noReset⟩ := noReset
    have next : (e'.cmdValid = true ∧ e'.cmdWord = e.cmdWord) ∧ hostKeepsWord (e' :: es) = true := by
      simpa [hostKeepsWord, waiting, rst] using kept
    obtain ⟨⟨valid, word⟩, kept⟩ := next
    rw [← word]
    cases ready : e'.cmdReady with
    | true =>
      rw [issuedWords_cons_of_issues (by simp [Edge.issues, rst, valid, ready])] at issued
      exact (List.cons.inj issued).1.symm
    | false =>
      rw [issuedWords_cons_of_idle (by simp [Edge.issues, ready])] at issued
      exact ih e' kept (by simp [Edge.waiting, rst, valid, ready]) noReset w ws issued

/-! ### Runs and the sequential reference (R64) -/

theorem run_succ_of_step {s t : State} (h : step s = .next t) (n : Nat) :
    Sys2Proof.core.run (n + 1) s = Sys2Proof.core.run n t := by
  have one : Sys2Proof.core.step s = .next t := h
  simp only [Host.Core.run, one]

theorem issueAll_cons_of_next {w : CmdWord} {s t : State} (h : issueWord w s = .next t) (ws : List CmdWord) :
    issueAll (w :: ws) s = issueAll ws t := by
  simp [issueAll, h]

/-- Two states with the same architectural state that have answered the same, however much of it is taken. -/
def State.agrees (t u : State) : Prop := t.sameCore u ∧ t.answers = u.answers

theorem State.agrees.responsePort {t u : State} (h : t.agrees u) (e : Edge) : (t.responsePort e).agrees u :=
  ⟨(t.responsePort_sameCore e).trans h.1, (t.responsePort_answers e).trans h.2⟩

/-- A word issued in agreeing states leaves them agreeing, with one answer more. -/
theorem State.agrees.issueWord {t u : State} (h : t.agrees u) (w : CmdWord) :
    ∃ t' u', issueWord w t = .next t' ∧ issueWord w u = .next u' ∧ t'.agrees u' ∧ t'.edges = t.edges ∧
      u'.answers.length = u.answers.length + 1 := by
  obtain ⟨core, answers⟩ := h
  obtain ⟨t', u', r, ht, hu, core', towed, uowed⟩ := issueWord_of_sameCore core w
  obtain ⟨-, -, -, -, tedges, tdelivered⟩ := issueWord_ports ht
  obtain ⟨-, -, -, -, -, udelivered⟩ := issueWord_ports hu
  have tanswers : t'.answers = t.answers ++ [r.word] := by simp [State.answers, towed, tdelivered]
  have uanswers : u'.answers = u.answers ++ [r.word] := by simp [State.answers, uowed, udelivered]
  exact ⟨t', u', ht, hu, ⟨core', by rw [tanswers, uanswers, answers]⟩, tedges, by simp [uanswers]⟩

/-- Along a row of edges without reset the run and the sequential reference go on agreeing. -/
theorem run_agrees_issueAll (es : List Edge) : ∀ t u : State, t.edges = es → (∀ e ∈ es, e.rst = false) → t.agrees u →
    ∃ t' u', Sys2Proof.core.run es.length t = .next t' ∧ issueAll (issuedWords es) u = .next u' ∧ t'.agrees u' ∧
      t'.edges = [] ∧ u'.answers.length = u.answers.length + (issuedWords es).length := by
  induction es with
  | nil => exact fun t u ht _ agree => ⟨t, u, rfl, rfl, agree, ht, rfl⟩
  | cons e es ih =>
    intro t u ht noReset agree
    rw [List.forall_mem_cons] at noReset
    obtain ⟨rst, noReset⟩ := noReset
    have port : (State.responsePort { t with edges := es } e).agrees u := State.agrees.responsePort (t := { t with edges := es }) agree e
    cases hi : e.issues with
    | false =>
      have hstep : step t = .next (State.responsePort { t with edges := es } e) := by
        rw [step_of_cons ht, clockEdge_of_idle rst hi]
      rw [List.length_cons, run_succ_of_step hstep, issuedWords_cons_of_idle hi]
      exact ih _ u (State.responsePort_edges _ e) noReset port
    | true =>
      obtain ⟨t', u', issuedT, issuedU, agree', edges, answered⟩ := port.issueWord e.cmdWord
      have hstep : step t = .next t' := by rw [step_of_cons ht, clockEdge_of_issues hi, issuedT]
      obtain ⟨t'', u'', run, all, agree'', done, total⟩ :=
        ih t' u' (edges.trans (State.responsePort_edges _ e)) noReset agree'
      rw [List.length_cons, run_succ_of_step hstep, issuedWords_cons_of_issues hi, issueAll_cons_of_next issuedU,
        List.length_cons]
      exact ⟨t'', u'', run, all, agree'', done, by omega⟩

/-- Settles O17. The run and the sequential reference start from the same state. -/
theorem runFollowsIssueOrder : Obligations.RunFollowsIssueOrder := by
  intro s es hs noReset
  obtain ⟨t, u, run, all, ⟨core, answers⟩, done, total⟩ :=
    run_agrees_issueAll es s s hs noReset ⟨s.sameCore_refl, rfl⟩
  exact ⟨t, u, run, all, core, done, answers, total⟩

/-- An edge at which the host takes a response and nothing is issued. -/
theorem step_of_delivery {s : State} {e : Edge} {rest : List Edge} {r : Response} {later : List Response}
    (hs : s.edges = e :: rest) (rst : e.rst = false) (idle : e.issues = false) (valid : s.rspValid e = true)
    (ready : e.rspReady = true) (owed : s.owed = r :: later) :
    step s = .next { s with edges := rest, owed := later, held := false, delivered := s.delivered ++ [r.word] } := by
  rw [step_of_cons hs, clockEdge_of_idle rst idle, State.responsePort_withEdges,
    State.responsePort_of_taken valid ready owed]

/-- Settles O18. Each of the edges hands over the oldest owed response and issues nothing. -/
theorem owedResponsesAreAllDelivered : Obligations.OwedResponsesAreAllDelivered := by
  intro s es
  induction es generalizing s with
  | nil =>
    intro _ length _
    have owed : s.owed = [] := List.eq_nil_of_length_eq_zero length.symm
    exact ⟨s, rfl, owed, s.sameCore_refl, by simp [owed]⟩
  | cons e es ih =>
    intro hs length pins
    rw [List.forall_mem_cons] at pins
    obtain ⟨⟨rst, idle, due, ready⟩, pins⟩ := pins
    obtain ⟨r, later, owed⟩ : ∃ r later, s.owed = r :: later := List.exists_cons_of_length_pos (by simp [← length])
    obtain ⟨s', hstep, edges', owed', delivered', core'⟩ : ∃ s', step s = .next s' ∧ s'.edges = es ∧ s'.owed = later ∧
        s'.delivered = s.delivered ++ [r.word] ∧ s'.sameCore s :=
      ⟨_, step_of_delivery hs rst (by simp [Edge.issues, idle]) (by simp [State.rspValid, owed, due]) ready owed,
        rfl, rfl, rfl, s.sameCore_refl⟩
    obtain ⟨t, run, empty, core, delivered⟩ := ih s' edges' (by simpa [owed, owed'] using length) pins
    rw [List.length_cons, run_succ_of_step hstep]
    exact ⟨t, run, empty, core.trans core', by simp [delivered, delivered', owed, owed']⟩

end Sys2Proof.Machine
end

section
/-!
The family of 70_reset_and_hazards.md: the runs without end with the fairness of the core and of the host (rules R211, R222,
R242).
-/

namespace Sys2Proof.Machine

section Runs

variable {ss : Nat → State} {es : Nat → Edge}

theorem NoResetFrom.mono {n m : Nat} (h : NoResetFrom es n) (le : n ≤ m) : NoResetFrom es m :=
  fun k hk => h k (le.trans hk)

/-- A property that every edge without reset keeps holds for ever after. -/
theorem NoResetFrom.induction {p : State → Prop} {n : Nat} (noReset : NoResetFrom es n) (start : p (ss n))
    (next : ∀ m, n ≤ m → (es m).rst = false → p (ss m) → p (ss (m + 1))) : ∀ m, n ≤ m → p (ss m) :=
  fun _ le => Nat.le_induction start (fun m hm => next m hm (noReset m hm)) _ le

/-! ### One edge of a run -/

theorem IsRun.next_of_idle (run : IsRun ss es) {n : Nat} (rst : (es n).rst = false) (idle : (es n).issues = false) :
    ss (n + 1) = (ss n).responsePort (es n) :=
  Host.Outcome.next.inj ((run n).symm.trans (clockEdge_of_idle rst idle (ss n)))

theorem IsRun.next_of_rst (run : IsRun ss es) {n : Nat} (rst : (es n).rst = true) : ss (n + 1) = (ss n).takeReset :=
  Host.Outcome.next.inj ((run n).symm.trans (step_of_rst rfl rst))

/-- After the response port, an edge without reset does no more to the ports than to append a response. -/
theorem IsRun.ports (run : IsRun ss es) {n : Nat} (rst : (es n).rst = false) :
    ∃ added, (ss (n + 1)).owed = ((ss n).responsePort (es n)).owed ++ added ∧
      (ss (n + 1)).held = ((ss n).responsePort (es n)).held ∧
      (ss (n + 1)).delivered = ((ss n).responsePort (es n)).delivered := by
  have ports := step_ports_of_not_rst ((ss n).nextEdge_edges (es n)) rst (run n)
  rwa [State.nextEdge, State.responsePort_withEdges] at ports

theorem State.delivered_isPrefix_responsePort (s : State) (e : Edge) :
    s.delivered <+: (s.responsePort e).delivered := by
  obtain h | ⟨r, rest, -, -, -, h⟩ | ⟨r, rest, -, -, -, h⟩ := s.responsePort_cases e
  · rw [h]
  · rw [h]
  · rw [h]
    exact List.prefix_append _ _

/-- What was delivered stays delivered. -/
theorem IsRun.delivered_isPrefix (run : IsRun ss es) {n m : Nat} (noReset : NoResetFrom es n) (le : n ≤ m) :
    (ss n).delivered <+: (ss m).delivered := by
  refine noReset.induction (p := fun t => (ss n).delivered <+: t.delivered) (List.prefix_refl _) ?_ m le
  intro k _ rst before
  obtain ⟨-, -, -, delivered⟩ := run.ports rst
  rw [delivered]
  exact before.trans (State.delivered_isPrefix_responsePort _ _)

/-- What was answered stays answered. -/
theorem IsRun.answers_isPrefix (run : IsRun ss es) {n m : Nat} (noReset : NoResetFrom es n) (le : n ≤ m) :
    (ss n).answers <+: (ss m).answers := by
  refine noReset.induction (p := fun t => (ss n).answers <+: t.answers) (List.prefix_refl _) ?_ m le
  intro k _ rst before
  obtain ⟨added, owed, -, delivered⟩ := run.ports rst
  have answers : (ss (k + 1)).answers = (ss k).answers ++ added.map Response.word := by
    rw [← State.responsePort_answers (ss k) (es k)]
    simp [State.answers, owed, delivered]
  rw [answers]
  exact before.trans (List.prefix_append _ _)

/-! ### Delivery (R242) -/

/-- A response the host does not take is presented at the next edge (R71). -/
theorem IsRun.rspValid_next (run : IsRun ss es) {n : Nat} (rst : (es n).rst = false) (withheld : Withheld ss es n) :
    (ss (n + 1)).rspValid (es (n + 1)) = true := by
  obtain ⟨valid, untaken⟩ := withheld
  obtain ⟨added, owed, held, -⟩ := run.ports rst
  rw [State.responsePort_of_untaken valid untaken] at owed held
  exact State.rspValid_of_held (by simp [owed, State.owed_ne_nil_of_rspValid valid]) held _

/-- A presented response is taken: else it would be withheld for ever. -/
theorem IsRun.exists_taken (run : IsRun ss es) (takes : HostTakes ss es) {n : Nat} (noReset : NoResetFrom es n)
    (valid : (ss n).rspValid (es n) = true) :
    ∃ m, n ≤ m ∧ (ss m).rspValid (es m) = true ∧ (es m).rspReady = true := by
  by_contra never
  push Not at never
  have withheld : ∀ m, n ≤ m → Withheld ss es m := by
    intro m le
    induction m, le using Nat.le_induction with
    | base => exact ⟨valid, by simpa using never n le_rfl valid⟩
    | succ m le ih =>
      have next := run.rspValid_next (noReset m le) ih
      exact ⟨next, by simpa using never (m + 1) (by omega) next⟩
  obtain ⟨m, le, taken⟩ := takes n
  exact taken (withheld m le)

/-- While a response is owed, one more is delivered. -/
theorem IsRun.exists_more_delivered (run : IsRun ss es) (presents : CorePresents ss es) (takes : HostTakes ss es) {n : Nat}
    (noReset : NoResetFrom es n) (owed : (ss n).owed ≠ []) :
    ∃ m, n ≤ m ∧ (ss n).delivered.length < (ss m).delivered.length := by
  obtain ⟨p, hp, valid⟩ := presents n noReset owed
  obtain ⟨m, hm, valid, ready⟩ := run.exists_taken takes (noReset.mono hp) valid
  obtain ⟨r, later, first⟩ := List.exists_cons_of_ne_nil (State.owed_ne_nil_of_rspValid valid)
  obtain ⟨-, -, -, delivered⟩ := run.ports (noReset m (hp.trans hm))
  rw [State.responsePort_of_taken valid ready first] at delivered
  have before := (run.delivered_isPrefix noReset (hp.trans hm)).length_le
  exact ⟨m + 1, by omega, by simp [delivered]; omega⟩

/-- As many words are delivered in the end as are answered now. -/
theorem IsRun.exists_delivered_length (run : IsRun ss es) (presents : CorePresents ss es) (takes : HostTakes ss es) {n : Nat}
    (noReset : NoResetFrom es n) :
    ∀ count, count ≤ (ss n).answers.length → ∃ m, n ≤ m ∧ count ≤ (ss m).delivered.length
  | 0, _ => ⟨n, le_rfl, Nat.zero_le _⟩
  | count + 1, bound => by
    obtain ⟨m, le, reached⟩ := run.exists_delivered_length presents takes noReset count (by omega)
    by_cases owed : (ss m).owed = []
    · have answered := (run.answers_isPrefix noReset le).length_le
      have all : (ss m).answers = (ss m).delivered := by simp [State.answers, owed]
      rw [all] at answered
      exact ⟨m, le, by omega⟩
    · obtain ⟨m', le', more⟩ := run.exists_more_delivered presents takes (noReset.mono le) owed
      exact ⟨m', le.trans le', by omega⟩

/-- Everything answered so far is eventually delivered, in order. -/
theorem IsRun.exists_answers_delivered (run : IsRun ss es) (presents : CorePresents ss es) (takes : HostTakes ss es)
    {n : Nat} (noReset : NoResetFrom es n) : ∃ m, n ≤ m ∧ (ss n).answers <+: (ss m).delivered := by
  obtain ⟨m, le, reached⟩ := run.exists_delivered_length presents takes noReset _ le_rfl
  have answered : (ss m).delivered <+: (ss m).answers := List.prefix_append _ _
  exact ⟨m, le, List.prefix_of_prefix_length_le (run.answers_isPrefix noReset le) answered reached⟩

/-! ### Acceptance (R211, R222, R242) -/

/-- If the host withholds nothing for ever, `cmd_ready` is high again. -/
theorem exists_cmdReady_of_hostTakes (accepts : CoreAccepts ss es) (takes : HostTakes ss es) {n : Nat}
    (noReset : NoResetFrom es n) : ∃ m, n ≤ m ∧ (es m).cmdReady = true := by
  obtain ready | ⟨m, -, withheld⟩ := accepts n noReset
  · exact ready
  · obtain ⟨k, le, taken⟩ := takes m
    exact absurd (withheld k le) taken

/-- Until a word is issued, a state that owes nothing stays as it is. -/
theorem IsRun.state_eq_of_idle (run : IsRun ss es) {n : Nat} (noReset : NoResetFrom es n) (owed : (ss n).owed = [])
    {m : Nat} (le : n ≤ m) (idle : ∀ k, n ≤ k → k < m → (es k).cmdReady = false) : ss m = ss n := by
  induction m, le using Nat.le_induction with
  | base => rfl
  | succ m le ih =>
    have before := ih fun k hn hm => idle k hn (by omega)
    rw [run.next_of_idle (noReset m le) (by simp [Edge.issues, idle m le]), before]
    exact State.responsePort_of_not_valid (by simp [State.rspValid, owed])

/-- From a state that owes nothing `cmd_ready` is high at some edge whatever the host does: there is nothing it could
withhold. -/
theorem CoreRun.exists_cmdReady_of_owed_nil (run : CoreRun ss es) {n : Nat} (noReset : NoResetFrom es n)
    (owed : (ss n).owed = []) : ∃ m, n ≤ m ∧ (es m).cmdReady = true := by
  obtain ⟨run, accepts, -⟩ := run
  by_contra never
  push Not at never
  obtain ⟨m, le, ready⟩ | ⟨m, -, withheld⟩ := accepts n noReset
  · exact never m le ready
  · have later : n ≤ max n m := le_max_left n m
    have same := run.state_eq_of_idle noReset owed later fun k hk _ => by simpa using never k hk
    obtain ⟨valid, -⟩ := withheld (max n m) (le_max_right n m)
    exact State.owed_ne_nil_of_rspValid valid (same ▸ owed)

/-- While nothing is offered, the architectural state is kept (R211). -/
theorem IsRun.sameCore_of_not_offered (run : IsRun ss es) {n : Nat} (noReset : NoResetFrom es n)
    (idle : ∀ m, n ≤ m → (es m).cmdValid = false) : ∀ m, n ≤ m → (ss m).sameCore (ss n) := by
  refine noReset.induction (p := fun t => t.sameCore (ss n)) (ss n).sameCore_refl ?_
  intro m le rst before
  rw [run.next_of_idle rst (by simp [Edge.issues, idle m le])]
  exact ((ss m).responsePort_sameCore _).trans before

end Runs

/-- Settles O60. Delivery counts the words delivered; the first edge after a reset at which the core is ready comes before
anything is issued, so it finds the reset state. -/
theorem fairRunsAnswerAndAccept : Obligations.FairRunsAnswerAndAccept := by
  intro ss es core
  obtain ⟨run, accepts, presents⟩ := core
  refine ⟨fun n noReset takes => ⟨run.exists_answers_delivered presents takes noReset,
    exists_cmdReady_of_hostTakes accepts takes noReset⟩, fun n rst noReset => ?afterReset,
    fun n noReset idle => run.sameCore_of_not_offered noReset idle⟩
  case afterReset =>
    have reset : ss (n + 1) = (ss n).takeReset := run.next_of_rst rst
    have owed : (ss (n + 1)).owed = [] := by rw [reset, State.takeReset_owed]
    have ready := CoreRun.exists_cmdReady_of_owed_nil ⟨run, accepts, presents⟩ noReset owed
    obtain ⟨later, first⟩ := Nat.find_spec ready
    have before : ∀ k, n < k → k < Nat.find ready → (es k).cmdReady = false :=
      fun k hn hk => by simpa using fun high => Nat.find_min ready hk ⟨hn, high⟩
    have same : ss (Nat.find ready) = (ss n).takeReset :=
      (run.state_eq_of_idle noReset owed later before).trans reset
    exact ⟨Nat.find ready, later, first, before, by rw [same]; exact ⟨rfl, rfl, rfl, rfl⟩⟩

end Sys2Proof.Machine
end

section
/-!
The family of 40_tables_and_permute.md and 20_memory.md: the construction of a Table Set and the word-indexed spaces (rules
R50, R93, R94, R191).
-/

namespace Sys2Proof.Machine

/-! ### Listing and construction (R93, R94)

Each level of a Table Set is a vector of entries, constructed from a list entry by entry. `f` constructs an entry from what
is listed, `g` lists it again, and `p` says what is valid. -/

section Listing

variable {α β : Type} {f : α → Option β} {g : β → α} {p : α → Bool}

theorem mapM_eq_some_iff_map_eq (inverse : ∀ a b, f a = some b ↔ g b = a) (l : List α) (l' : List β) :
    l.mapM f = some l' ↔ l'.map g = l := by
  induction l generalizing l' with
  | nil => simp
  | cons a l ih =>
    simp only [List.mapM_cons, Option.bind_eq_bind, Option.bind_eq_some_iff, Option.pure_def, Option.some.injEq, inverse, ih]
    cases l' with
    | nil => simp
    | cons b l' => simp

theorem toVector?_eq_some_iff {m : Nat} (l : List β) (v : Vector β m) : toVector? m l = some v ↔ v.toList = l := by
  unfold toVector?
  split
  · rw [Option.some.injEq, ← Vector.toList_inj]
    exact eq_comm
  · rename_i length
    refine ⟨nofun, fun listed => absurd ?_ length⟩
    rw [← listed, Vector.length_toList]

/-- A vector is constructed from a list exactly if it lists as that list. -/
theorem vector_constructed_iff (inverse : ∀ a b, f a = some b ↔ g b = a) {m : Nat} (l : List α) (v : Vector β m) :
    (l.mapM f).bind (toVector? m) = some v ↔ v.toList.map g = l := by
  simp only [Option.bind_eq_some_iff, toVector?_eq_some_iff, mapM_eq_some_iff_map_eq inverse]
  exact ⟨fun ⟨_, listed, same⟩ => same ▸ listed, fun listed => ⟨_, listed, rfl⟩⟩

/-- A list of the right length with valid entries is the list of a vector, and conversely. -/
theorem vector_valid_iff (valid : ∀ a, p a = true ↔ ∃ b, g b = a) (m : Nat) (l : List α) :
    (l.length == m && l.all p) = true ↔ ∃ v : Vector β m, v.toList.map g = l := by
  rw [Bool.and_eq_true, beq_iff_eq, List.all_eq_true]
  constructor
  · rintro ⟨rfl, entries⟩
    obtain ⟨l', rfl⟩ : l ∈ Set.range (List.map g) := by
      rw [Set.range_list_map]
      exact fun a ha => (valid a).mp (entries a ha)
    exact ⟨⟨l'.toArray, by simp⟩, rfl⟩
  · rintro ⟨v, rfl⟩
    simp [valid]

end Listing

/-! ### The entries and the levels of a Table Set (R91, R93) -/

theorem toIndex?_eq_some_iff (n x : Nat) (i : Fin n) : toIndex? n x = some i ↔ i.val = x := by
  unfold toIndex?
  split
  · rw [Option.some.injEq, Fin.ext_iff]
    exact eq_comm
  · rename_i bound
    exact ⟨nofun, fun same => absurd (same ▸ i.isLt) bound⟩

theorem lt_iff_exists_fin (n x : Nat) : decide (x < n) = true ↔ ∃ i : Fin n, i.val = x := by
  rw [decide_eq_true_iff]
  exact ⟨fun bound => ⟨⟨x, bound⟩, rfl⟩, fun ⟨i, same⟩ => same ▸ i.isLt⟩

theorem lt_iff_exists_nibble (x : Nat) : decide (x < 16) = true ↔ ∃ b : Nibble, b.toNat = x := by
  rw [lt_iff_exists_fin]
  exact ⟨fun ⟨i, same⟩ => ⟨BitVec.ofFin i, same⟩, fun ⟨b, same⟩ => ⟨b.toFin, same⟩⟩

theorem selectionTable?_eq_some_iff (n m : Nat) (t : List Nat) (v : Vector (Fin n) m) :
    selectionTable? n m t = some v ↔ v.toList.map Fin.val = t :=
  vector_constructed_iff (toIndex?_eq_some_iff n) t v

theorem selectionValid_iff (n m : Nat) (t : List Nat) :
    selectionValid n m t = true ↔ ∃ v : Vector (Fin n) m, v.toList.map Fin.val = t :=
  vector_valid_iff (lt_iff_exists_fin n) m t

/-- A row of an S-box as it is listed. -/
def rowList (r : Vector Nibble 16) : List Nat := r.toList.map BitVec.toNat

/-- An S-box as it is listed. -/
def sboxList (b : Vector (Vector Nibble 16) 4) : List (List Nat) := b.toList.map rowList

theorem sboxRow?_eq_some_iff (r : List Nat) (v : Vector Nibble 16) : sboxRow? r = some v ↔ rowList v = r := by
  simp only [sboxRow?, Option.map_eq_some_iff, selectionTable?_eq_some_iff]
  constructor
  · rintro ⟨w, rfl, rfl⟩
    simp [rowList, Vector.toList_map]
  · rintro rfl
    exact ⟨v.map BitVec.toFin, by simp [rowList, Vector.toList_map], by simp [Function.comp_def]⟩

theorem sboxRowValid_iff (r : List Nat) : selectionValid 16 16 r = true ↔ ∃ v, rowList v = r :=
  vector_valid_iff lt_iff_exists_nibble 16 r

theorem sbox?_eq_some_iff (b : List (List Nat)) (v : Vector (Vector Nibble 16) 4) : sbox? b = some v ↔ sboxList v = b :=
  vector_constructed_iff sboxRow?_eq_some_iff b v

theorem sboxValid_iff (b : List (List Nat)) : sboxValid b = true ↔ ∃ v, sboxList v = b :=
  vector_valid_iff sboxRowValid_iff 4 b

/-! ### Table Sets (R93, R94, R191) -/

/-- The Table Set constructed from a list is the one that lists so. -/
theorem tableSet?_eq_some_iff (raw : RawTableSet) (ts : TableSet) : tableSet? raw = some ts ↔ rawTables ts = raw := by
  obtain ⟨pc1, pc2, e, p, s⟩ := ts
  have parts : tableSet? raw = some ⟨pc1, pc2, e, p, s⟩ ↔ selectionTable? 32 32 raw.pc1 = some pc1 ∧
      selectionTable? 32 24 raw.pc2 = some pc2 ∧ selectionTable? 16 24 raw.e = some e ∧
      selectionTable? 16 16 raw.p = some p ∧ (raw.s.mapM sbox?).bind (toVector? 4) = some s := by
    unfold tableSet?
    split
    · simp [*]
    · rename_i missing
      exact ⟨nofun, fun ⟨hpc1, hpc2, he, hp, hs⟩ => (missing _ _ _ _ _ hpc1 hpc2 he hp hs).elim⟩
  rw [parts, selectionTable?_eq_some_iff, selectionTable?_eq_some_iff, selectionTable?_eq_some_iff,
    selectionTable?_eq_some_iff, vector_constructed_iff sbox?_eq_some_iff]
  obtain ⟨pc1', pc2', e', p', s'⟩ := raw
  exact Iff.of_eq (RawTableSet.mk.injEq ..).symm

/-- A listed Table Set is valid exactly if it is the list of a Table Set (R93). -/
theorem rawTablesValid_iff (raw : RawTableSet) : rawTablesValid raw = true ↔ ∃ ts, rawTables ts = raw := by
  rw [rawTablesValid, Bool.and_eq_true, Bool.and_eq_true, Bool.and_eq_true, Bool.and_eq_true, selectionValid_iff,
    selectionValid_iff, selectionValid_iff, selectionValid_iff, vector_valid_iff sboxValid_iff]
  constructor
  · rintro ⟨⟨⟨⟨⟨pc1, hpc1⟩, pc2, hpc2⟩, e, he⟩, p, hp⟩, s, hs⟩
    obtain ⟨rpc1, rpc2, re, rp, rs⟩ := raw
    dsimp only at hpc1 hpc2 he hp hs
    subst hpc1 hpc2 he hp hs
    exact ⟨⟨pc1, pc2, e, p, s⟩, rfl⟩
  · rintro ⟨ts, rfl⟩
    exact ⟨⟨⟨⟨⟨ts.pc1, rfl⟩, ts.pc2, rfl⟩, ts.e, rfl⟩, ts.p, rfl⟩, ts.s, rfl⟩

theorem mkTableSet_eq_ok_iff (raw : RawTableSet) (ts : TableSet) : mkTableSet raw = .ok ts ↔ rawTables ts = raw := by
  rw [← tableSet?_eq_some_iff, mkTableSet]
  cases tableSet? raw <;> simp

/-- Settles O35. Construction inverts listing, and validity is to be listed from some Table Set. -/
theorem tableSetIsConstructedExactlyWhenValid : Obligations.TableSetIsConstructedExactlyWhenValid := by
  refine ⟨fun raw valid => ?valid, fun raw invalid => ?invalid, fun ts => (mkTableSet_eq_ok_iff _ ts).mpr rfl⟩
  case valid =>
    obtain ⟨ts, listed⟩ := (rawTablesValid_iff raw).mp valid
    exact ⟨ts, (mkTableSet_eq_ok_iff raw ts).mpr listed, listed⟩
  case invalid =>
    cases made : mkTableSet raw with
    | error x => rfl
    | ok ts => simp [(rawTablesValid_iff raw).mpr ⟨ts, (mkTableSet_eq_ok_iff raw ts).mp made⟩] at invalid

/-! ### The spaces (R50) -/

/-- A keyed core has a word exactly below the size of the space. -/
theorem memRead_isSome_iff (ts : TableSet) (ks : KeySchedule) (sp : Space) (index : Nat) :
    (memRead ts (some ks) sp index).isSome = true ↔ index < sp.words := by
  cases sp <;> simp [memRead, Space.words]

/-- A word fits the width of its space. -/
theorem memRead_lt (ts : TableSet) (ks : KeySchedule) (sp : Space) {index v : Nat}
    (h : memRead ts (some ks) sp index = some v) : v < 2 ^ sp.width := by
  cases sp with
  | romE | romP | romPC1 | romPC2 =>
    obtain ⟨entry, -, rfl⟩ := Option.map_eq_some_iff.mp h
    exact entry.isLt
  | romS k =>
    obtain ⟨_, word⟩ := Option.dite_none_right_eq_some.mp h
    exact Option.some.inj word ▸ BitVec.isLt _
  | rk =>
    obtain ⟨key, -, rfl⟩ := Option.map_eq_some_iff.mp h
    exact key.isLt

/-- Settles O36. Sizes and widths are `memRead_isSome_iff` and `memRead_lt`; an index below the size reads its entry. -/
theorem spacesHaveExactlyTheirWords : Obligations.SpacesHaveExactlyTheirWords := by
  intro ts ks sp index
  refine ⟨memRead_isSome_iff ts ks sp index, fun v => memRead_lt ts ks sp, rfl, fun i => ⟨?e, ?pc2⟩,
    fun i => ⟨?p, ?rk⟩, fun i => ?pc1, memRead_romS ts _⟩
  case e | pc2 | p | rk | pc1 => simp [memRead]

end Sys2Proof.Machine
end

section
/-!
The family of 40_tables_and_permute.md and 41_key_schedule.md: `permute`, the shift amounts and the schedules (rules R95, R98,
R111 to R119).
-/

namespace Sys2Proof.Machine

/-! ### `permute` (R95, R98) -/

@[simp] theorem permute_zero {n m : Nat} (t : Vector (Fin n) m) : permute (0 : BitVec n) t = 0 := by
  ext i h
  simp [permute_getElem]

@[simp] theorem permute_allOnes {n m : Nat} (t : Vector (Fin n) m) :
    permute (BitVec.allOnes n) t = BitVec.allOnes m := by
  ext i h
  simp [permute_getElem]

theorem permute_xor {n m : Nat} (a b : BitVec n) (t : Vector (Fin n) m) :
    permute (a ^^^ b) t = permute a t ^^^ permute b t := by
  ext i h
  simp [permute_getElem]

theorem permute_ofFn_id {n : Nat} (v : BitVec n) : permute v (Vector.ofFn id) = v := by
  ext i h
  simp [permute_getElem]

/-- Settles O37. Each law is a law of the single bits. -/
theorem permuteLaws : Obligations.PermuteLaws :=
  ⟨fun _ _ t => ⟨permute_zero t, permute_allOnes t, fun a b => permute_xor a b t⟩, fun _ v => permute_ofFn_id v⟩

/-- Settles O38. Position j from the top is position M-1-j from the bottom, in the output and in the input. -/
theorem permuteSelectsBits : Obligations.PermuteSelectsBits := by
  intro n m v t j h
  refine ⟨permute_getLsbD v t j h, ?_⟩
  have entry : (t[m - 1 - j]'(by omega)).val < n := (t[m - 1 - j]'(by omega)).isLt
  rw [BitVec.getMsbD_eq_getLsbD, BitVec.getMsbD_eq_getLsbD, permute_getLsbD v t _ (by omega)]
  have back : n - 1 - (n - 1 - (t[m - 1 - j]'(by omega)).val) = (t[m - 1 - j]'(by omega)).val := by omega
  have inside : n - 1 - (t[m - 1 - j]'(by omega)).val < n := by omega
  simp [h, back, inside]

/-! ### The shift amounts (R113, R114) -/

/-- The sum of the increments before round n. -/
theorem sum_shiftIncrement (n : Nat) : ((List.range n).map shiftIncrement).sum = n + (n + 2) / 3 := by
  induction n with
  | zero => rfl
  | succ n ih =>
    have increment : shiftIncrement n = (n + 1 + 2) / 3 + 1 - (n + 2) / 3 := by
      unfold shiftIncrement
      split <;> omega
    simp only [List.range_succ, List.map_append, List.sum_append, ih, List.map_singleton, List.sum_singleton, increment]
    omega

/-- Reducing at every round is reducing once. -/
theorem shiftBefore_eq_sum_mod (n : Nat) : shiftBefore n = ((List.range n).map shiftIncrement).sum % 16 := by
  induction n with
  | zero => rfl
  | succ n ih => simp [shiftBefore, ih, List.range_succ]

/-- The shift amount in closed form (R114). -/
theorem shift_eq (n : Nat) : shift n = (n + 1 + (n + 3) / 3) % 16 := by
  rw [shift, shiftBefore_eq_sum_mod, sum_shiftIncrement]

theorem shift_le (n : Nat) : shift n ≤ 15 := by
  rw [shift_eq]
  omega

/-- Twelve rounds rotate once around (R119). -/
theorem shift_add_twelve (n : Nat) : shift (n + 12) = shift n := by
  rw [shift_eq, shift_eq]
  omega

/-- Settles O40. The sum is by induction, and reducing at every round is reducing it once. -/
theorem shiftHasTheClosedForm : Obligations.ShiftHasTheClosedForm :=
  fun n => ⟨sum_shiftIncrement (n + 1), shift_eq n⟩

/-! ### The rotation (R14, R115) -/

theorem ror16_getLsbD (h : Half) {s i : Nat} (hs : s ≤ 15) (hi : i < 16) :
    (ror16 h s).getLsbD i = h.getLsbD ((i + s) % 16) := by
  have amount : s % 16 = s := Nat.mod_eq_of_lt (by omega)
  rw [ror16, BitVec.getLsbD_rotateRight, amount, Bool.cond_decide]
  split
  · rw [show (i + s) % 16 = s + i by omega]
  · rw [show (i + s) % 16 = i - (16 - s) by omega]
    simp [hi]

theorem shiftedHalf_append_self (h : Half) {s : Nat} (hs : s ≤ 15) : shiftedHalf (h ++ h) s = ror16 h s := by
  refine BitVec.eq_of_getLsbD_eq fun i hi => ?_
  rw [ror16_getLsbD h hs hi, shiftedHalf, lo16_getLsbD, BitVec.getLsbD_ushiftRight, BitVec.getLsbD_append]
  split
  · rw [show (i + s) % 16 = s + i by omega]
    simp [hi]
  · rw [show (i + s) % 16 = s + i - 16 by omega]
    simp [hi]

/-- Settles O41. Both sides have bit (i + s) mod 16 of the half in place i. -/
theorem shiftedDuplicateIsTheRotation : Obligations.ShiftedDuplicateIsTheRotation :=
  fun h _ hs => ⟨shiftedHalf_append_self h hs, fun _ hi => ror16_getLsbD h hs hi⟩

/-! ### The schedules (R117 to R119) -/

/-- Round key n is PC2 of the rotated halves (R111 to R117). -/
theorem KS_getElem_eq_permute (ts : TableSet) (seed : Seed) (n : Nat) (h : n < 16) :
    (KS ts seed)[n] =
      permute (ror16 (hi16 (permute seed ts.pc1)) (shift n) ++ ror16 (lo16 (permute seed ts.pc1)) (shift n)) ts.pc2 := by
  rw [KS_getElem, roundValue, loadKeyRegs, shiftedHalf_append_self _ (shift_le n), shiftedHalf_append_self _ (shift_le n)]

/-- Settles O42. The shift of a duplicated half is its rotation, because every amount is below 16. -/
theorem roundKeyIsPC2OfTheRotatedHalves : Obligations.RoundKeyIsPC2OfTheRotatedHalves :=
  fun ts seed n => KS_getElem_eq_permute ts seed n n.isLt

/-- Twelve rounds later the key is the same (R119). -/
theorem KS_getElem_add_twelve (ts : TableSet) (seed : Seed) (n : Nat) (h : n + 12 < 16) :
    (KS ts seed)[n + 12] = (KS ts seed)[n] := by
  rw [KS_getElem, KS_getElem, roundValue_congr _ (shift_add_twelve n)]

/-- Settles O43. Keys 12 to 15 come twelve rounds after keys 0 to 3. -/
theorem scheduleRepeatsItsFirstFourKeys : Obligations.ScheduleRepeatsItsFirstFourKeys :=
  fun ts seed => ⟨KS_getElem_add_twelve ts seed 0 (by decide), KS_getElem_add_twelve ts seed 1 (by decide),
    KS_getElem_add_twelve ts seed 2 (by decide), KS_getElem_add_twelve ts seed 3 (by decide)⟩

@[simp] theorem ror16_zero (s : Nat) : ror16 0 s = 0 := by
  refine BitVec.eq_of_getLsbD_eq fun i _ => ?_
  simp [ror16, BitVec.getLsbD_rotateRight]

theorem ror16_allOnes {s : Nat} (hs : s ≤ 15) : ror16 (BitVec.allOnes 16) s = BitVec.allOnes 16 := by
  refine BitVec.eq_of_getLsbD_eq fun i hi => ?_
  rw [ror16_getLsbD _ hs hi, BitVec.getLsbD_allOnes, BitVec.getLsbD_allOnes, decide_eq_true hi,
    decide_eq_true (Nat.mod_lt _ (by decide))]

/-- Settles O44. A half of one bit value is its own rotation, and `permute` keeps the bit value. -/
theorem schedulesOfTheConstantSeeds : Obligations.SchedulesOfTheConstantSeeds := by
  intro ts
  refine ⟨Vector.ext fun n hn => ?zero, Vector.ext fun n hn => ?ones⟩
  case zero =>
    have halves : hi16 0 = 0 ∧ lo16 0 = 0 ∧ (0 : Half) ++ (0 : Half) = (0 : BitVec 32) := by decide
    obtain ⟨hi, lo, both⟩ := halves
    rw [KS_getElem_eq_permute, permute_zero, hi, lo, ror16_zero, both, permute_zero, Vector.getElem_replicate]
  case ones =>
    have seed : (0xFFFFFFFF : Seed) = BitVec.allOnes 32 := rfl
    have halves : hi16 (BitVec.allOnes 32) = BitVec.allOnes 16 ∧ lo16 (BitVec.allOnes 32) = BitVec.allOnes 16 ∧
        BitVec.allOnes 16 ++ BitVec.allOnes 16 = BitVec.allOnes 32 := by decide
    obtain ⟨hi, lo, both⟩ := halves
    rw [KS_getElem_eq_permute, seed, permute_allOnes, hi, lo, ror16_allOnes (shift_le n), both, permute_allOnes,
      Vector.getElem_replicate]
    rfl

end Sys2Proof.Machine
end

section
/-!
The family of 42_round_function.md and 43_feistel_transform.md: the corner cases of the round function, and the laws of the
transform (rules R139, R140, R153, R158, R163 to R168).
-/

namespace Sys2Proof.Machine

/-! ### The round function (R139, R140) -/

/-- The substitution of 0 is the four corner entries (R140). -/
theorem sub_zero (ts : TableSet) :
    sub ts 0 = sboxEntry ts 0 0 0 ++ sboxEntry ts 1 0 0 ++ sboxEntry ts 2 0 0 ++ sboxEntry ts 3 0 0 := by
  have address : ∀ i : Fin 4, groupRow (group 0 i) = 0 ∧ groupCol (group 0 i) = 0 := by decide
  simp only [sub, lookup, address]

/-- Settles O48. `permute` keeps 0 and all ones; the key enters `F_SUB` only after the expansion. -/
theorem roundFunctionCorners : Obligations.RoundFunctionCorners := by
  refine fun ts => ⟨fun r k k' => ?keyless, fun k => ?zero, fun k => ?ones, ?corner, fun r r' k equal => ?expansion⟩
  case keyless => rw [F_fRef, F_fRef]
  case zero => rw [F_fRef, permute_zero]
  case ones => exact permute_allOnes ts.p
  case corner =>
    have mixed : mix 0 0 = 0 := rfl
    rw [F_fSub, expand, permute_zero, mixed, sub_zero]
  case expansion => rw [F_fSub, F_fSub, equal]

/-! ### What the transform depends on (R158, R163, R164) -/

/-- Settles O53. Every other index is in range, so it reads its register. -/
theorem transformReadsTheDrawOnlyUnderK16 : Obligations.TransformReadsTheDrawOnlyUnderK16 :=
  fun ts _ rk _ b koor koor' inRange => XF_koor_congr ts inRange rk b koor koor'

/-- Settles O54. No round reads its key. -/
theorem fRefTransformIgnoresTheKeys : Obligations.FRefTransformIgnoresTheKeys := XF_fRef_congr

/-! ### The round trip (R153, R165) -/

/-- The other Direction. -/
def Direction.opposite : Direction → Direction
  | .encrypt => .decrypt
  | .decrypt => .encrypt

/-- A round in the opposite Direction with the same key undoes a round (R153). -/
theorem feistelRound_opposite (ts : TableSet) (fmode : FMode) (dir : Direction) (k : RoundKey) (h : Halves) :
    feistelRound ts fmode (Direction.opposite dir) k (feistelRound ts fmode dir k h) = h := by
  cases dir <;> simp [Direction.opposite]

/-- Settles O50. Each of the two rounds is the other's opposite. -/
theorem roundsUndoEachOther : Obligations.RoundsUndoEachOther :=
  fun ts fmode k h => ⟨feistelRound_opposite ts fmode .encrypt k h, feistelRound_opposite ts fmode .decrypt k h⟩

/-- Under `K15` the opposite Direction uses the keys in the opposite order (R154, R155). -/
theorem keyIndex_k15_opposite {n : Nat} (h : n < 16) (dir : Direction) :
    keyIndex .k15 (Direction.opposite dir) n = keyIndex .k15 dir (15 - n) := by
  cases dir with
  | encrypt => rfl
  | decrypt => simp only [Direction.opposite, keyIndex_encrypt, keyIndex_decrypt_k15]; omega

theorem keyIndex_k15_lt {n : Nat} (h : n < 16) (dir : Direction) : keyIndex .k15 dir n < 16 := by
  by_contra outOfRange
  obtain ⟨hk, -⟩ := (keyIndex_outOfRange_iff h .k15 dir).mp (by omega)
  cases hk

/-- Under `K15`, n rounds in the opposite Direction undo the last n of sixteen rounds. -/
theorem xfRounds_opposite (ts : TableSet) (fmode : FMode) (rk : KeySchedule) (dir : Direction) (koor koor' : RoundKey)
    (h : Halves) : ∀ n ≤ 16,
      xfRounds ts ⟨fmode, .k15⟩ rk (Direction.opposite dir) koor' n (xfRounds ts ⟨fmode, .k15⟩ rk dir koor 16 h) =
        xfRounds ts ⟨fmode, .k15⟩ rk dir koor (16 - n) h
  | 0, _ => rfl
  | n + 1, bound => by
    have remaining : 16 - n = 15 - n + 1 := by omega
    have index := keyIndex_k15_lt (show 15 - n < 16 by omega) dir
    rw [xfRounds_succ, xfRounds_opposite ts fmode rk dir koor koor' h n (by omega), remaining, xfRounds_succ,
      keyIndex_k15_opposite (by omega), keyAt_of_lt rk koor _ index, keyAt_of_lt rk koor' _ index, feistelRound_opposite,
      Nat.add_sub_add_right 15 1 n]

/-- Under `K15` the transform in the opposite Direction undoes the transform. -/
theorem XF_opposite_k15 (ts : TableSet) (fmode : FMode) (rk : KeySchedule) (dir : Direction) (b : Block)
    (koor koor' : RoundKey) :
    XF ts ⟨fmode, .k15⟩ rk (Direction.opposite dir) (XF ts ⟨fmode, .k15⟩ rk dir b koor) koor' = b := by
  rw [XF, XF, splitBlock_joinHalves, xfRounds_opposite ts fmode rk dir koor koor' _ 16 le_rfl, Nat.sub_self,
    xfRounds_zero, joinHalves_splitBlock]

/-- In an invertible mode pair KIDX is K15 or has no effect (R163, R165). -/
theorem XF_eq_k15_of_invertible (ts : TableSet) {cfg : Cfg} (h : cfg.invertible = true) (rk : KeySchedule)
    (dir : Direction) (b : Block) (koor : RoundKey) :
    XF ts cfg rk dir b koor = XF ts ⟨cfg.fmode, .k15⟩ rk dir b koor := by
  obtain ⟨fmode, kidx⟩ := cfg
  cases kidx with
  | k15 => rfl
  | k16 =>
    cases fmode with
    | fRef => exact XF_fRef_congr ts .k16 .k15 rk rk dir b koor koor
    | fSub => cases h

/-- The round-trip law, either Direction first (R165). -/
theorem XF_opposite (ts : TableSet) {cfg : Cfg} (h : cfg.invertible = true) (rk : KeySchedule) (dir : Direction)
    (b : Block) (koor koor' : RoundKey) :
    XF ts cfg rk (Direction.opposite dir) (XF ts cfg rk dir b koor) koor' = b := by
  rw [XF_eq_k15_of_invertible ts h, XF_eq_k15_of_invertible ts h rk dir, XF_opposite_k15]

/-- Settles O57. -/
theorem transformRoundTrip : Obligations.TransformRoundTrip :=
  fun ts _ rk b koor koor' h => ⟨XF_opposite ts h rk .encrypt b koor koor', XF_opposite ts h rk .decrypt b koor koor'⟩

/-! ### The round trip on the machine (R163 to R165) -/

/-- With a schedule, ENC and DEC answer the transform and keep the schedule and CFG (R160, R161). -/
theorem exec_transformBlock {s : State} {ks : KeySchedule} (hrk : s.rk = some ks) (b : Block) (dir : Direction) :
    ∃ t, exec (.transformBlock b dir) s = .next t ∧
      t.owed = s.owed ++ [⟨.ok, XF Config.tables s.cfg ks dir b (Config.koor s.draws)⟩] ∧ t.rk = some ks ∧
      t.cfg = s.cfg := by
  cases dir with
  | encrypt => exact ⟨_, exec_enc_of_some hrk b, rfl, hrk, rfl⟩
  | decrypt => exact ⟨_, exec_dec_of_some hrk b, by simp, by simp [hrk], by simp⟩

/-- The answer of ENC or DEC, given to the other of the two, is answered with the Block. -/
theorem exec_transformBlock_opposite {s : State} {ks : KeySchedule} (hrk : s.rk = some ks) (h : s.cfg.invertible = true)
    (b : Block) (dir : Direction) :
    ∃ c t u, exec (.transformBlock b dir) s = .next t ∧ t.owed = s.owed ++ [⟨.ok, c⟩] ∧
      exec (.transformBlock c (Direction.opposite dir)) t = .next u ∧ u.owed = t.owed ++ [⟨.ok, b⟩] := by
  obtain ⟨t, ht, towed, trk, tcfg⟩ := exec_transformBlock hrk b dir
  obtain ⟨u, hu, uowed, -, -⟩ := exec_transformBlock trk (XF Config.tables s.cfg ks dir b (Config.koor s.draws))
    (Direction.opposite dir)
  rw [tcfg, XF_opposite Config.tables h] at uowed
  exact ⟨_, t, u, ht, towed, hu, uowed⟩

/-- Settles O34. ENC and DEC are the transform in the two Directions. -/
theorem roundTripOnTheMachine : Obligations.RoundTripOnTheMachine :=
  fun _ _ b hrk h => ⟨exec_transformBlock_opposite hrk h b .encrypt, exec_transformBlock_opposite hrk h b .decrypt⟩

/-- Settles O33. ENC and DEC answer the transform, which under `F_REF` reads neither the schedule nor KIDX nor the draw. -/
theorem fRefResponsesIgnoreKeysAndKidx : Obligations.FRefResponsesIgnoreKeysAndKidx := by
  intro s s' ks ks' b i hi hrk hrk' hf hf'
  obtain ⟨dir, rfl⟩ : ∃ dir, i = .transformBlock b dir := by
    obtain rfl | rfl := hi
    · exact ⟨.encrypt, rfl⟩
    · exact ⟨.decrypt, rfl⟩
  obtain ⟨t, ht, owed, -, -⟩ := exec_transformBlock hrk b dir
  obtain ⟨t', ht', owed', -, -⟩ := exec_transformBlock hrk' b dir
  have cfg : s.cfg = ⟨.fRef, s.cfg.kidx⟩ := by rw [← hf]
  have cfg' : s'.cfg = ⟨.fRef, s'.cfg.kidx⟩ := by rw [← hf']
  rw [cfg', XF_fRef_congr Config.tables _ s.cfg.kidx ks' ks dir b _ (Config.koor s.draws), ← cfg] at owed'
  exact ⟨t, t', _, ht, ht', owed, owed'⟩

/-! ### The transform under `F_REF` (R163, R168) -/

/-- The exclusive or of two pairs of halves. -/
def Halves.xor (h h' : Halves) : Halves := ⟨h.left ^^^ h'.left, h.right ^^^ h'.right⟩

theorem splitBlock_xor (a b : Block) : splitBlock (a ^^^ b) = (splitBlock a).xor (splitBlock b) := by
  simp [splitBlock, Halves.xor, hi16, lo16, BitVec.extractLsb'_xor]

theorem joinHalves_xor (h h' : Halves) : joinHalves (h.xor h') = joinHalves h ^^^ joinHalves h' :=
  BitVec.xor_append.symm

/-- Under `F_REF` a round is linear, because `permute` is (R98, R163). -/
theorem feistelRound_fRef_xor (ts : TableSet) (dir : Direction) (k : RoundKey) (h h' : Halves) :
    feistelRound ts .fRef dir k (h.xor h') = (feistelRound ts .fRef dir k h).xor (feistelRound ts .fRef dir k h') := by
  cases dir <;> simp [Halves.xor, F_fRef, permute_xor] <;> ac_rfl

theorem xfRounds_fRef_xor (ts : TableSet) (kidx : KIdx) (rk : KeySchedule) (dir : Direction) (koor : RoundKey)
    (h h' : Halves) (n : Nat) :
    xfRounds ts ⟨.fRef, kidx⟩ rk dir koor n (h.xor h') =
      (xfRounds ts ⟨.fRef, kidx⟩ rk dir koor n h).xor (xfRounds ts ⟨.fRef, kidx⟩ rk dir koor n h') := by
  induction n with
  | zero => rfl
  | succ n ih => rw [xfRounds_succ, xfRounds_succ, xfRounds_succ, ih, feistelRound_fRef_xor]

theorem XF_fRef_xor (ts : TableSet) (kidx : KIdx) (rk : KeySchedule) (dir : Direction) (a b : Block) (koor : RoundKey) :
    XF ts ⟨.fRef, kidx⟩ rk dir (a ^^^ b) koor =
      XF ts ⟨.fRef, kidx⟩ rk dir a koor ^^^ XF ts ⟨.fRef, kidx⟩ rk dir b koor := by
  rw [XF, splitBlock_xor, xfRounds_fRef_xor, joinHalves_xor, ← XF, ← XF]

/-- Settles O55. A linear function sends 0 = 0 xor 0 to 0. -/
theorem fRefTransformIsLinear : Obligations.FRefTransformIsLinear := by
  refine fun ts kidx rk dir a b koor => ⟨XF_fRef_xor ts kidx rk dir a b koor, ?_⟩
  have zero := XF_fRef_xor ts kidx rk dir 0 0 koor
  rwa [BitVec.xor_self, BitVec.xor_self] at zero

/-- A round under `F_REF` where P leaves the halves as they are. -/
def Halves.turn (dir : Direction) (h : Halves) : Halves :=
  match dir with
  | .encrypt => ⟨h.right, h.left ^^^ h.right⟩
  | .decrypt => ⟨h.right ^^^ h.left, h.left⟩

/-- P leaves both halves as they are. -/
def Halves.fixed (ts : TableSet) (h : Halves) : Prop := permute h.left ts.p = h.left ∧ permute h.right ts.p = h.right

theorem Halves.fixed.turn {ts : TableSet} {h : Halves} (fixed : h.fixed ts) (dir : Direction) :
    (h.turn dir).fixed ts := by
  obtain ⟨left, right⟩ := fixed
  cases dir <;> simp [Halves.fixed, Halves.turn, permute_xor, left, right]

theorem feistelRound_fRef_of_fixed {ts : TableSet} {h : Halves} (fixed : h.fixed ts) (dir : Direction) (k : RoundKey) :
    feistelRound ts .fRef dir k h = h.turn dir := by
  obtain ⟨left, right⟩ := fixed
  cases dir <;> simp [Halves.turn, F_fRef, left, right]

/-- Three such rounds change nothing. -/
theorem Halves.turn_period (dir : Direction) (h : Halves) : Function.IsPeriodicPt (Halves.turn dir) 3 h := by
  cases dir <;> simp [Function.IsPeriodicPt, Function.IsFixedPt, Halves.turn]

theorem xfRounds_fRef_of_fixed {ts : TableSet} {h : Halves} (fixed : h.fixed ts) (kidx : KIdx) (rk : KeySchedule)
    (dir : Direction) (koor : RoundKey) (n : Nat) :
    xfRounds ts ⟨.fRef, kidx⟩ rk dir koor n h = (Halves.turn dir)^[n] h ∧ ((Halves.turn dir)^[n] h).fixed ts := by
  induction n with
  | zero => exact ⟨rfl, fixed⟩
  | succ n ih =>
    obtain ⟨rounds, stay⟩ := ih
    rw [xfRounds_succ, rounds, Function.iterate_succ_apply']
    exact ⟨feistelRound_fRef_of_fixed stay dir _, stay.turn dir⟩

/-- Under `F_REF`, on halves P leaves as they are, sixteen rounds are one. -/
theorem XF_fRef_of_fixed {ts : TableSet} {l r : Half} (fixed : Halves.fixed ts ⟨l, r⟩) (kidx : KIdx) (rk : KeySchedule)
    (dir : Direction) (koor : RoundKey) :
    XF ts ⟨.fRef, kidx⟩ rk dir (l ++ r) koor = joinHalves (Halves.turn dir ⟨l, r⟩) := by
  have halves : splitBlock (l ++ r) = ⟨l, r⟩ := splitBlock_joinHalves ⟨l, r⟩
  have one := (Halves.turn_period dir ⟨l, r⟩).iterate_mod_apply 16
  rw [XF, halves, (xfRounds_fRef_of_fixed fixed kidx rk dir koor 16).1, ← one]
  rfl

/-- Settles O59. The identity leaves all halves as they are. -/
theorem identityPClosedForm : Obligations.IdentityPClosedForm := by
  intro ts kidx rk l r koor hp
  have fixed : Halves.fixed ts ⟨l, r⟩ := by simp [Halves.fixed, hp, permute_ofFn_id]
  refine ⟨XF_fRef_of_fixed fixed kidx rk .encrypt koor, ?_⟩
  rw [XF_fRef_of_fixed fixed, BitVec.xor_comm l r]
  rfl

/-- Settles O56. Every P leaves the half of zeros and the half of ones as they are. -/
theorem fRefTransformOfConstantHalves : Obligations.FRefTransformOfConstantHalves := by
  intro ts kidx rk koor
  have zeros : permute (0 : Half) ts.p = 0 := permute_zero ts.p
  have ones : permute (0xFFFF : Half) ts.p = 0xFFFF := permute_allOnes ts.p
  have value {l r : Half} (hl : permute l ts.p = l) (hr : permute r ts.p = r) (dir : Direction) :=
    XF_fRef_of_fixed ⟨hl, hr⟩ kidx rk dir koor
  exact ⟨value zeros zeros .encrypt, value ones ones .encrypt, value ones zeros .encrypt, value zeros ones .encrypt,
    value ones zeros .decrypt, value ones ones .decrypt, value zeros ones .decrypt⟩

end Sys2Proof.Machine
end

section
/-!
The family of 43_feistel_transform.md, the mode pair whose round trip fails (rules R165, R166). With TID's P replaced by
one that copies bit 0 everywhere, a draw matters through its bit 0 alone, so the law fails for every draw if it fails for two.
-/

namespace Sys2Proof.Machine

/-- TID with a P that copies bit 0. -/
def tidCopyingP : TableSet := { tid with p := Vector.replicate 16 0 }

/-- The S-boxes of TID hand on the column. -/
theorem sboxEntry_tidCopyingP (k row : Fin 4) (col : Fin 16) : sboxEntry tidCopyingP k row col = BitVec.ofFin col := by
  simp [sboxEntry, tidCopyingP, tid]

theorem lookup_tidCopyingP (m : BitVec 24) (i : Fin 4) : lookup tidCopyingP m i = (group m i).extractLsb' 0 4 :=
  sboxEntry_tidCopyingP i _ _

/-- The substitution of TID keeps bit 0. -/
theorem sub_tidCopyingP_getLsbD_zero (m : BitVec 24) : (sub tidCopyingP m).getLsbD 0 = m.getLsbD 0 := by
  have nibble := congrArg (·.getLsbD 0) (substitutionPlacesTheNibbles tidCopyingP m 3)
  simpa [lookup_tidCopyingP, group] using nibble

/-- The key enters the round function by its bit 0 alone. -/
theorem F_tidCopyingP_congr {k k' : RoundKey} (h : k.getLsbD 0 = k'.getLsbD 0) (r : Half) :
    F tidCopyingP .fSub r k = F tidCopyingP .fSub r k' := by
  refine BitVec.eq_of_getLsbD_eq fun i hi => ?_
  have copied : (tidCopyingP.p[i]).val = 0 := by simp [tidCopyingP]
  rw [F_fSub, F_fSub, permute_getLsbD _ _ i hi, permute_getLsbD _ _ i hi, copied, sub_tidCopyingP_getLsbD_zero,
    sub_tidCopyingP_getLsbD_zero, mix, mix, BitVec.getLsbD_xor, BitVec.getLsbD_xor, h]

/-- The draw enters the transform by its bit 0 alone. -/
theorem XF_tidCopyingP_congr {koor koor' : RoundKey} (h : koor.getLsbD 0 = koor'.getLsbD 0) (kidx : KIdx)
    (ks : KeySchedule) (dir : Direction) (b : Block) :
    XF tidCopyingP ⟨.fSub, kidx⟩ ks dir b koor = XF tidCopyingP ⟨.fSub, kidx⟩ ks dir b koor' := by
  refine XF_congr (fun n hn x => ?_) b
  have key : (keyAt ks koor (keyIndex kidx dir n)).getLsbD 0 = (keyAt ks koor' (keyIndex kidx dir n)).getLsbD 0 := by
    by_cases index : keyIndex kidx dir n < 16
    · rw [keyAt_of_lt _ _ _ index, keyAt_of_lt _ _ _ index]
    · rw [keyAt_of_le _ _ _ (by omega), keyAt_of_le _ _ _ (by omega), h]
  cases dir with
  | encrypt => rw [feistelRound_encrypt, feistelRound_encrypt, F_tidCopyingP_congr key]
  | decrypt => rw [feistelRound_decrypt, feistelRound_decrypt, F_tidCopyingP_congr key]

/-- Settles O58. The seed 4 and the Block 0: the two draws that differ in bit 0 are evaluated. -/
theorem transformRoundTripFailsUnderFSubK16 : Obligations.TransformRoundTripFailsUnderFSubK16 := by
  refine ⟨tidCopyingP, 4, 0, fun koor koor' => ?_⟩
  rw [XF_koor_congr tidCopyingP (by simp) _ _ koor 0]
  cases bit : koor'.getLsbD 0 with
  | false =>
    rw [XF_tidCopyingP_congr (koor' := 0) bit]
    decide +kernel
  | true =>
    rw [XF_tidCopyingP_congr (koor' := 1) bit]
    decide +kernel

end Sys2Proof.Machine
end
